-- ==== Sys2Proof/Word.lean ====
section
/-! DEFINITION. The value types of the core (00_scope.md R9, R11): bytes, 16-bit words and register indices. All values are unsigned. -/

namespace Sys2Proof

/-- An 8-bit value: a memory cell, a data register, a timer (00_scope.md R9). -/
abbrev Byte := BitVec 8

/-- A 16-bit value: an opcode, PC, I, a return address (00_scope.md R9). -/
abbrev Word := BitVec 16

/-- A register index 0x0–0xF, the value of an opcode's x or y field (10_state.md R23). A key index has the same range. -/
abbrev Reg := Fin 16

end Sys2Proof
end

