-- ==== Sys2Proof/Syntax.lean ====
section
/-! DEFINITION. The instruction set: one constructor per row of the opcode table (30_encoding.md R74), in the table's order. -/

namespace Sys2Proof

/-- The 31 instructions. `x`, `y` are register indices, `nn` an 8-bit immediate, `nnn` a 12-bit address held in the 16 bits of
PC and I, and `n` a count of sprite rows (30_encoding.md R72). -/
inductive Instr where
  /-- 00E0 `CLS` (R181). -/
  | cls
  /-- 00EE `RET` (R111). -/
  | ret
  /-- 1nnn `JP nnn` (R112). -/
  | jp (nnn : Word)
  /-- 2nnn `CALL nnn` (R113). -/
  | call (nnn : Word)
  /-- 3xnn `SE Vx, nn` (R114). -/
  | seByte (x : Reg) (nn : Byte)
  /-- 4xnn `SNE Vx, nn` (R115). -/
  | sneByte (x : Reg) (nn : Byte)
  /-- 5xy0 `SE Vx, Vy` (R116). -/
  | seReg (x y : Reg)
  /-- 6xnn `LD Vx, nn` (R131). -/
  | ldByte (x : Reg) (nn : Byte)
  /-- 7xnn `ADD Vx, nn` (R132). -/
  | addByte (x : Reg) (nn : Byte)
  /-- 8xy0 `LD Vx, Vy` (R133). -/
  | ldReg (x y : Reg)
  /-- 8xy1 `OR Vx, Vy` (R134). -/
  | or (x y : Reg)
  /-- 8xy2 `AND Vx, Vy` (R135). -/
  | and (x y : Reg)
  /-- 8xy3 `XOR Vx, Vy` (R136). -/
  | xor (x y : Reg)
  /-- 8xy4 `ADD Vx, Vy` (R137). -/
  | addReg (x y : Reg)
  /-- 8xy5 `SUB Vx, Vy` (R138). -/
  | sub (x y : Reg)
  /-- 8xy6 `SHR Vx` (R139): "the y field is decoded but not used", so it is kept here and its encoding loses no bit (log 7). -/
  | shr (x y : Reg)
  /-- 8xy7 `SUBN Vx, Vy` (R140). -/
  | subn (x y : Reg)
  /-- 9xy0 `SNE Vx, Vy` (R117). -/
  | sneReg (x y : Reg)
  /-- Annn `LD I, nnn` (R160). -/
  | ldI (nnn : Word)
  /-- Dxyn `DRW Vx, Vy, n` (R182). -/
  | drw (x y : Reg) (n : Nat)
  /-- Ex9E `SKP Vx` (R201). -/
  | skp (x : Reg)
  /-- ExA1 `SKNP Vx` (R202). -/
  | sknp (x : Reg)
  /-- Fx07 `LD Vx, DT` (R203). -/
  | ldVxDt (x : Reg)
  /-- Fx0A `LD Vx, K` (R204). -/
  | ldVxK (x : Reg)
  /-- Fx15 `LD DT, Vx` (R206). -/
  | ldDtVx (x : Reg)
  /-- Fx18 `LD ST, Vx` (R207). -/
  | ldStVx (x : Reg)
  /-- Fx1E `ADD I, Vx` (R162). -/
  | addIVx (x : Reg)
  /-- Fx29 `LD F, Vx` (R163). -/
  | ldFVx (x : Reg)
  /-- Fx33 `LD B, Vx` (R164). -/
  | ldBVx (x : Reg)
  /-- Fx55 `LD [I], Vx` (R165). -/
  | ldMemVx (x : Reg)
  /-- Fx65 `LD Vx, [I]` (R166). -/
  | ldVxMem (x : Reg)
deriving DecidableEq, Repr

end Sys2Proof
end

