-- ==== Sys2Proof/WellFormed.lean ====
section
/-! DEFINITION. Which terms of `Instr` an opcode can stand for (30_encoding.md R71, R72). Register indices and immediates are in range by
their types; an address field has 12 bits and a row count has 4, and those two are checked here. -/

namespace Sys2Proof

/-- nnn fits its 12-bit field: an address 0x000..0xFFF (30_encoding.md R72). -/
def addressFits (nnn : Word) : Bool := decide (nnn.toNat ≤ 0xFFF)

/-- n fits its 4-bit field: 0..15 sprite rows (30_encoding.md R72). -/
def rowsFit (n : Nat) : Bool := decide (n ≤ 15)

/-- Every operand fits the field its encoding gives it (30_encoding.md R71). -/
def Instr.wellFormed : Instr → Bool
  | .cls => true
  | .ret => true
  | .jp nnn => addressFits nnn
  | .call nnn => addressFits nnn
  | .seByte _ _ => true
  | .sneByte _ _ => true
  | .seReg _ _ => true
  | .ldByte _ _ => true
  | .addByte _ _ => true
  | .ldReg _ _ => true
  | .or _ _ => true
  | .and _ _ => true
  | .xor _ _ => true
  | .addReg _ _ => true
  | .sub _ _ => true
  | .shr _ _ => true
  | .subn _ _ => true
  | .sneReg _ _ => true
  | .ldI nnn => addressFits nnn
  | .drw _ _ n => rowsFit n
  | .skp _ => true
  | .sknp _ => true
  | .ldVxDt _ => true
  | .ldVxK _ => true
  | .ldDtVx _ => true
  | .ldStVx _ => true
  | .addIVx _ => true
  | .ldFVx _ => true
  | .ldBVx _ => true
  | .ldMemVx _ => true
  | .ldVxMem _ => true

end Sys2Proof
end

