-- ==== Sys2Proof/Decode.lean ====
section
/-! DEFINITION. The decoder (30_encoding.md R70–R77), total on every opcode and on any list of bytes, and the encoder written from the same
table. The table of R74 stands here as data too, so that decoder and table can be compared. -/

namespace Sys2Proof

/-! ## Bytes and opcodes -/

/-- "two consecutive bytes at the program counter combine big-endian into a 16-bit opcode" (20_memory.md R50). -/
def opcodeOfBytes (hi lo : Byte) : Word := BitVec.ofNat 16 (hi.toNat * 256 + lo.toNat)

/-- The byte of an opcode stored at the lower address, bits 15..8 (20_memory.md R50). -/
def highByte (op : Word) : Byte := BitVec.ofNat 8 (op.toNat / 256)

/-- The byte of an opcode stored at the higher address, bits 7..0 (20_memory.md R50). -/
def lowByte (op : Word) : Byte := BitVec.ofNat 8 (op.toNat % 256)

/-! ## Fields (30_encoding.md R71) -/

/-- `op[15:12]`, the family. -/
def fieldFamily (op : Word) : Nat := op.toNat / 0x1000

/-- `op[11:8]`, x. -/
def fieldX (op : Word) : Reg := Fin.ofNat 16 (op.toNat / 0x100)

/-- `op[7:4]`, y. -/
def fieldY (op : Word) : Reg := Fin.ofNat 16 (op.toNat / 0x10)

/-- `op[3:0]`, n. -/
def fieldN (op : Word) : Nat := op.toNat % 0x10

/-- `op[7:0]`, nn. -/
def fieldNN (op : Word) : Byte := BitVec.ofNat 8 (op.toNat % 0x100)

/-- `op[11:0]`, nnn, zero-extended to the width of PC and I (30_encoding.md R72). -/
def fieldNNN (op : Word) : Word := BitVec.ofNat 16 (op.toNat % 0x1000)

/-! ## The opcode table as data (30_encoding.md R74) -/

/-- A row of the table: an opcode selects it when `(op & mask) == match`. -/
structure OpcodeRow where
  /-- The row's mnemonic. -/
  mnemonic : String
  /-- The match column. -/
  bits : Word
  /-- The mask column. -/
  mask : Word
deriving DecidableEq, Repr

/-- `(op & mask) == match` (30_encoding.md R74). -/
def OpcodeRow.selects (r : OpcodeRow) (op : Word) : Bool := (op &&& r.mask) == r.bits

/-- The 31 rows (30_encoding.md R74). -/
def opcodeTable : List OpcodeRow := [
  ⟨"CLS", 0x00E0#16, 0xFFFF#16⟩,
  ⟨"RET", 0x00EE#16, 0xFFFF#16⟩,
  ⟨"JP", 0x1000#16, 0xF000#16⟩,
  ⟨"CALL", 0x2000#16, 0xF000#16⟩,
  ⟨"SE_BYTE", 0x3000#16, 0xF000#16⟩,
  ⟨"SNE_BYTE", 0x4000#16, 0xF000#16⟩,
  ⟨"SE_REG", 0x5000#16, 0xF00F#16⟩,
  ⟨"LD_BYTE", 0x6000#16, 0xF000#16⟩,
  ⟨"ADD_BYTE", 0x7000#16, 0xF000#16⟩,
  ⟨"LD_REG", 0x8000#16, 0xF00F#16⟩,
  ⟨"OR", 0x8001#16, 0xF00F#16⟩,
  ⟨"AND", 0x8002#16, 0xF00F#16⟩,
  ⟨"XOR", 0x8003#16, 0xF00F#16⟩,
  ⟨"ADD_REG", 0x8004#16, 0xF00F#16⟩,
  ⟨"SUB", 0x8005#16, 0xF00F#16⟩,
  ⟨"SHR", 0x8006#16, 0xF00F#16⟩,
  ⟨"SUBN", 0x8007#16, 0xF00F#16⟩,
  ⟨"SNE_REG", 0x9000#16, 0xF00F#16⟩,
  ⟨"LD_I", 0xA000#16, 0xF000#16⟩,
  ⟨"DRW", 0xD000#16, 0xF000#16⟩,
  ⟨"SKP", 0xE09E#16, 0xF0FF#16⟩,
  ⟨"SKNP", 0xE0A1#16, 0xF0FF#16⟩,
  ⟨"LD_VX_DT", 0xF007#16, 0xF0FF#16⟩,
  ⟨"LD_VX_K", 0xF00A#16, 0xF0FF#16⟩,
  ⟨"LD_DT_VX", 0xF015#16, 0xF0FF#16⟩,
  ⟨"LD_ST_VX", 0xF018#16, 0xF0FF#16⟩,
  ⟨"ADD_I_VX", 0xF01E#16, 0xF0FF#16⟩,
  ⟨"LD_F_VX", 0xF029#16, 0xF0FF#16⟩,
  ⟨"LD_B_VX", 0xF033#16, 0xF0FF#16⟩,
  ⟨"LD_MEM_VX", 0xF055#16, 0xF0FF#16⟩,
  ⟨"LD_VX_MEM", 0xF065#16, 0xF0FF#16⟩]

/-- The row an instruction stands for, by its mnemonic (30_encoding.md R74). -/
def mnemonicOf : Instr → String
  | .cls => "CLS"
  | .ret => "RET"
  | .jp _ => "JP"
  | .call _ => "CALL"
  | .seByte _ _ => "SE_BYTE"
  | .sneByte _ _ => "SNE_BYTE"
  | .seReg _ _ => "SE_REG"
  | .ldByte _ _ => "LD_BYTE"
  | .addByte _ _ => "ADD_BYTE"
  | .ldReg _ _ => "LD_REG"
  | .or _ _ => "OR"
  | .and _ _ => "AND"
  | .xor _ _ => "XOR"
  | .addReg _ _ => "ADD_REG"
  | .sub _ _ => "SUB"
  | .shr _ _ => "SHR"
  | .subn _ _ => "SUBN"
  | .sneReg _ _ => "SNE_REG"
  | .ldI _ => "LD_I"
  | .drw _ _ _ => "DRW"
  | .skp _ => "SKP"
  | .sknp _ => "SKNP"
  | .ldVxDt _ => "LD_VX_DT"
  | .ldVxK _ => "LD_VX_K"
  | .ldDtVx _ => "LD_DT_VX"
  | .ldStVx _ => "LD_ST_VX"
  | .addIVx _ => "ADD_I_VX"
  | .ldFVx _ => "LD_F_VX"
  | .ldBVx _ => "LD_B_VX"
  | .ldMemVx _ => "LD_MEM_VX"
  | .ldVxMem _ => "LD_VX_MEM"

/-! ## Decoding -/

/-- Families 0x0: 00E0 and 00EE only (30_encoding.md R74, R76). -/
def decodeFamily0 (op : Word) : Option Instr :=
  if op = 0x00E0#16 then some .cls else if op = 0x00EE#16 then some .ret else none

/-- Family 0x8, selected by the low nibble (30_encoding.md R73, R74). -/
def decodeFamily8 (op : Word) : Option Instr :=
  match fieldN op with
  | 0x0 => some (.ldReg (fieldX op) (fieldY op))
  | 0x1 => some (.or (fieldX op) (fieldY op))
  | 0x2 => some (.and (fieldX op) (fieldY op))
  | 0x3 => some (.xor (fieldX op) (fieldY op))
  | 0x4 => some (.addReg (fieldX op) (fieldY op))
  | 0x5 => some (.sub (fieldX op) (fieldY op))
  | 0x6 => some (.shr (fieldX op) (fieldY op))
  | 0x7 => some (.subn (fieldX op) (fieldY op))
  | _ => none

/-- Family 0xE, selected by the low byte (30_encoding.md R73, R74). -/
def decodeFamilyE (op : Word) : Option Instr :=
  match op.toNat % 0x100 with
  | 0x9E => some (.skp (fieldX op))
  | 0xA1 => some (.sknp (fieldX op))
  | _ => none

/-- Family 0xF, selected by the low byte (30_encoding.md R73, R74). -/
def decodeFamilyF (op : Word) : Option Instr :=
  match op.toNat % 0x100 with
  | 0x07 => some (.ldVxDt (fieldX op))
  | 0x0A => some (.ldVxK (fieldX op))
  | 0x15 => some (.ldDtVx (fieldX op))
  | 0x18 => some (.ldStVx (fieldX op))
  | 0x1E => some (.addIVx (fieldX op))
  | 0x29 => some (.ldFVx (fieldX op))
  | 0x33 => some (.ldBVx (fieldX op))
  | 0x55 => some (.ldMemVx (fieldX op))
  | 0x65 => some (.ldVxMem (fieldX op))
  | _ => none

/-- `Decode(op)` (30_encoding.md R73–R76): the instruction of the row the opcode selects, or `none` for Unmatched. An unmatched
opcode is no error: the step runs it as the observable no-op of 40_cycle.md R97. -/
def decode (op : Word) : Option Instr :=
  match fieldFamily op with
  | 0x0 => decodeFamily0 op
  | 0x1 => some (.jp (fieldNNN op))
  | 0x2 => some (.call (fieldNNN op))
  | 0x3 => some (.seByte (fieldX op) (fieldNN op))
  | 0x4 => some (.sneByte (fieldX op) (fieldNN op))
  | 0x5 => if fieldN op = 0 then some (.seReg (fieldX op) (fieldY op)) else none
  | 0x6 => some (.ldByte (fieldX op) (fieldNN op))
  | 0x7 => some (.addByte (fieldX op) (fieldNN op))
  | 0x8 => decodeFamily8 op
  | 0x9 => if fieldN op = 0 then some (.sneReg (fieldX op) (fieldY op)) else none
  | 0xA => some (.ldI (fieldNNN op))
  | 0xD => some (.drw (fieldX op) (fieldY op) (fieldN op))
  | 0xE => decodeFamilyE op
  | 0xF => decodeFamilyF op
  | _ => none

/-- Why a list of bytes gives no instruction. -/
inductive DecodeReject where
  /-- The opcode matches no row (30_encoding.md R76); the step executes it as a no-op (40_cycle.md R97). -/
  | unmatched (op : Word)
  /-- Fewer than the two bytes of an opcode (30_encoding.md R70). -/
  | truncated
deriving DecidableEq, Repr

/-- What decoding a list of bytes gives. -/
inductive DecodedBytes where
  /-- The instruction its first two bytes hold, and the bytes after it. -/
  | instr (i : Instr) (rest : List Byte)
  /-- No instruction, and why. -/
  | reject (why : DecodeReject)
deriving DecidableEq, Repr

/-- Decode the opcode at the head of a list of bytes, the first byte being the one at the lower address (20_memory.md R50). -/
def decodeBytes : List Byte → DecodedBytes
  | hi :: lo :: rest =>
    match decode (opcodeOfBytes hi lo) with
    | some i => .instr i rest
    | none => .reject (.unmatched (opcodeOfBytes hi lo))
  | [_] => .reject .truncated
  | [] => .reject .truncated

/-! ## Encoding (30_encoding.md R79): the literal nibbles of the pattern, with x, y, n, nn or nnn in their bits -/

/-- An opcode of a family with an nnn field. -/
def packNNN (family : Nat) (nnn : Word) : Word := BitVec.ofNat 16 (family * 0x1000 + nnn.toNat)

/-- An opcode of a family with an x field and a low byte. -/
def packXB (family : Nat) (x : Reg) (low : Nat) : Word := BitVec.ofNat 16 (family * 0x1000 + x.val * 0x100 + low)

/-- An opcode of a family with x and y fields and a low nibble. -/
def packXYN (family : Nat) (x y : Reg) (low : Nat) : Word :=
  BitVec.ofNat 16 (family * 0x1000 + x.val * 0x100 + y.val * 0x10 + low)

/-- The opcode of an instruction (30_encoding.md R74, R79). -/
def encode : Instr → Word
  | .cls => 0x00E0#16
  | .ret => 0x00EE#16
  | .jp nnn => packNNN 0x1 nnn
  | .call nnn => packNNN 0x2 nnn
  | .seByte x nn => packXB 0x3 x nn.toNat
  | .sneByte x nn => packXB 0x4 x nn.toNat
  | .seReg x y => packXYN 0x5 x y 0x0
  | .ldByte x nn => packXB 0x6 x nn.toNat
  | .addByte x nn => packXB 0x7 x nn.toNat
  | .ldReg x y => packXYN 0x8 x y 0x0
  | .or x y => packXYN 0x8 x y 0x1
  | .and x y => packXYN 0x8 x y 0x2
  | .xor x y => packXYN 0x8 x y 0x3
  | .addReg x y => packXYN 0x8 x y 0x4
  | .sub x y => packXYN 0x8 x y 0x5
  | .shr x y => packXYN 0x8 x y 0x6
  | .subn x y => packXYN 0x8 x y 0x7
  | .sneReg x y => packXYN 0x9 x y 0x0
  | .ldI nnn => packNNN 0xA nnn
  | .drw x y n => packXYN 0xD x y n
  | .skp x => packXB 0xE x 0x9E
  | .sknp x => packXB 0xE x 0xA1
  | .ldVxDt x => packXB 0xF x 0x07
  | .ldVxK x => packXB 0xF x 0x0A
  | .ldDtVx x => packXB 0xF x 0x15
  | .ldStVx x => packXB 0xF x 0x18
  | .addIVx x => packXB 0xF x 0x1E
  | .ldFVx x => packXB 0xF x 0x29
  | .ldBVx x => packXB 0xF x 0x33
  | .ldMemVx x => packXB 0xF x 0x55
  | .ldVxMem x => packXB 0xF x 0x65

/-- The two bytes of an instruction, in address order (20_memory.md R50). -/
def encodeBytes (i : Instr) : List Byte := [highByte (encode i), lowByte (encode i)]

/-! ## The host's reading of a table word -/

/-- The opcode of a word `w` of `nbits` bits numbered as spec/opcode_table.json numbers them: bit 0 is the opcode's least significant
bit. Bits of the opcode above `nbits` are 0. -/
def tableOpcode (nbits w : Nat) : Word := BitVec.ofNat 16 (w % 2 ^ min nbits 16)

/-- The instruction the decoder reads from a table word, laid out big-endian as memory holds it (20_memory.md R50). -/
def decodeTableWord (nbits w : Nat) : Option Instr :=
  match decodeBytes [highByte (tableOpcode nbits w), lowByte (tableOpcode nbits w)] with
  | .instr i _ => some i
  | .reject _ => none

end Sys2Proof
end

