-- ==== Sys2Proof/Config.lean ====
section
/-! DEFINITION. The two parameters the spec leaves OPEN (00_scope.md R10; 92_eei_decisions.md D7, D13): the font bytes and what a sprite
row past the bottom edge does. They are plain data; a machine carries its own in `State.cfg`, so a statement about every state
is a statement about every choice of them (log 1, 2, 3). -/

namespace Sys2Proof

/-- FONT: 80 bytes, glyph d's row j at index 5·d + j (10_state.md R36). -/
abbrev Font := Vector Byte 80

/-- DRAW_ROW_MODE (44_display.md R184). -/
inductive DrawRowMode where
  /-- Display row v mod 32. -/
  | wrap
  /-- A row past 31 is read from memory and not drawn. -/
  | clip
deriving DecidableEq, Repr

/-- The open parameters of one machine. -/
structure Config where
  /-- FONT (92_eei_decisions.md D13). -/
  font : Font
  /-- DRAW_ROW_MODE (92_eei_decisions.md D7). -/
  drawRowMode : DrawRowMode
deriving DecidableEq, Repr

end Sys2Proof
end

