-- ==== Sys2Proof/Machine/State.lean ====
section
/-! DEFINITION. The state of the core (10_state.md R20–R47), the reasons a step or a host call can stop, and the state after
initialisation. Everything is plain data. -/

namespace Sys2Proof.Machine

/-- MEM (10_state.md R20) as the list of the bytes that differ from what initialisation put there, at strictly rising addresses
(`Memory.wf`, Machine/Ops.lean, where reading and writing are defined). -/
abbrev Memory := List Host.Cell

/-- PIX: 32 rows of 64 one-bit pixels, row first (10_state.md R40). -/
abbrev Display := Vector (Vector Bool 64) 32

/-- The five fault kinds, "an enumeration of the five names above, compared by name" (60_exceptions.md R221). -/
inductive FaultKind where
  /-- CALL at depth 16. -/
  | StackOverflow
  /-- RET on the empty stack. -/
  | StackUnderflow
  /-- An access would reach an address above 0xFFF. -/
  | AddressOutOfRange
  /-- A store would write into the font, 0x000–0x04F. -/
  | FontWrite
  /-- A key test names a key above 15. -/
  | KeyIndexOutOfRange
deriving DecidableEq, Repr

/-- The outcome `Fault(kind, at, op, info)` (40_cycle.md R90; 60_exceptions.md R221). `pc` is the spec's `at`, the address of the
faulting opcode. A step that faults changes no architectural state (R222); the machine's run ends here, and `perform` gives the
state a host could go on from (log 5). All five are the spec's own faults: safe. -/
inductive Fault where
  /-- Raised by CALL when the stack holds 16 entries (41_control_flow.md R113). Safe. -/
  | stackOverflow (pc op : Word)
  /-- Raised by RET when the stack is empty (41_control_flow.md R111). Safe. -/
  | stackUnderflow (pc op : Word)
  /-- Raised by a fetch at PC ≥ 0xFFF, with no op (20_memory.md R59), and by DRW, LD_B_VX, LD_MEM_VX and LD_VX_MEM when their range
  passes 0xFFF (R60); `info` is the highest offending address. Safe. -/
  | addressOutOfRange (pc : Word) (op : Option Word) (info : Word)
  /-- Raised by LD_B_VX and LD_MEM_VX when I ≤ 0x04F (20_memory.md R61); `info` is I. Safe. -/
  | fontWrite (pc op info : Word)
  /-- Raised by SKP and SKNP when Vx > 15 (45_keys_timers.md R200); `info` is Vx. Safe. -/
  | keyIndexOutOfRange (pc op info : Word)
deriving DecidableEq, Repr

/-- The fault's kind (60_exceptions.md R221). -/
def Fault.kind : Fault → FaultKind
  | .stackOverflow _ _ => .StackOverflow
  | .stackUnderflow _ _ => .StackUnderflow
  | .addressOutOfRange _ _ _ => .AddressOutOfRange
  | .fontWrite _ _ _ => .FontWrite
  | .keyIndexOutOfRange _ _ _ => .KeyIndexOutOfRange

/-- The fault's `at` (40_cycle.md R90). -/
def Fault.address : Fault → Word
  | .stackOverflow pc _ => pc
  | .stackUnderflow pc _ => pc
  | .addressOutOfRange pc _ _ => pc
  | .fontWrite pc _ _ => pc
  | .keyIndexOutOfRange pc _ _ => pc

/-- The fault's `op`, none for a fetch (40_cycle.md R90). -/
def Fault.opcode : Fault → Option Word
  | .stackOverflow _ op => some op
  | .stackUnderflow _ op => some op
  | .addressOutOfRange _ op _ => op
  | .fontWrite _ op _ => some op
  | .keyIndexOutOfRange _ op _ => some op

/-- The fault's `info`: the offending data address, or the key value (40_cycle.md R90). -/
def Fault.info : Fault → Option Word
  | .stackOverflow _ _ => none
  | .stackUnderflow _ _ => none
  | .addressOutOfRange _ _ info => some info
  | .fontWrite _ _ info => some info
  | .keyIndexOutOfRange _ _ info => some info

/-- Why a call has no meaning. No step of this machine is refused. -/
inductive Refusal where
  /-- An arm of `exec` that has no meaning yet, by the table's mnemonic. No arm uses it. Safe. -/
  | notModelled (mnemonic : String)
  /-- A host call `setKey` with an index outside 0..15 breaks a host duty (60_exceptions.md R244, R245). Raised by `perform`, never by a
  step. Safe. -/
  | setKeyIndex (index : Nat)
  /-- A host call `load` after a successful load or after the first step (70_reset_and_hazards.md R265). Raised by `perform`, never by a
  step. Safe. -/
  | loadClosed
deriving DecidableEq, Repr

/-- The state of the core (10_state.md R47), and the parameters of this machine. -/
structure State where
  /-- MEM, 4096 bytes (10_state.md R20). -/
  mem : Memory
  /-- V0–VF (10_state.md R23); VF is also the flag register (R25). -/
  v : Vector Byte 16
  /-- I (10_state.md R27). -/
  i : Word
  /-- PC (10_state.md R29). -/
  pc : Word
  /-- S, the return addresses, the most recent last (10_state.md R31; 00_scope.md R12). -/
  stack : List Word
  /-- DT (10_state.md R33). -/
  dt : Byte
  /-- ST (10_state.md R33). -/
  st : Byte
  /-- KEY, true when the key is down (10_state.md R38). -/
  keys : Vector Bool 16
  /-- PIX (10_state.md R40). -/
  pix : Display
  /-- DIRTY (10_state.md R42). -/
  dirty : Bool
  /-- LOAD_OPEN, the host-protocol bit (10_state.md R44). -/
  loadOpen : Bool
  /-- The model's own field: the machine's FONT and DRAW_ROW_MODE, which no transaction changes (log 3). -/
  cfg : Config
deriving DecidableEq, Repr

/-- Every pixel 0. -/
def blankDisplay : Display := Vector.replicate 32 (Vector.replicate 64 false)

/-- The state after initialisation (10_state.md R47; 70_reset_and_hazards.md R260), with the spec's default parameters. -/
def State.reset : State where
  mem := []
  v := Vector.replicate 16 0#8
  i := 0#16
  pc := 0x200#16
  stack := []
  dt := 0#8
  st := 0#8
  keys := Vector.replicate 16 false
  pix := blankDisplay
  dirty := true
  loadOpen := true
  cfg := defaultConfig

end Sys2Proof.Machine
end

