-- ==== Sys2Proof/Machine/Ops.lean ====
section
/-! DEFINITION. The named operations every meaning is written over: memory, registers, the program counter, the stack, the display, and the
one way a step ends in a fault. -/

namespace Sys2Proof.Machine

/-! ## Memory (20_memory.md) -/

/-- What an address that no write has changed reads as: the font at 0x000–0x04F and 0 elsewhere (10_state.md R21, R36). -/
def initialByte (font : Font) (a : Nat) : Byte := if h : a < 80 then font[a] else 0#8

/-- `MemRead(a, 1)` (20_memory.md R55). -/
def Memory.read (font : Font) : Memory → Nat → Byte
  | [], a => initialByte font a
  | c :: rest, a => if c.1 = a then c.2 else Memory.read font rest a

/-- List the byte `b` at address `a`, in its place in the rising order. -/
def Memory.put : Memory → Nat → Byte → Memory
  | [], a, b => [(a, b)]
  | c :: rest, a, b =>
    if a < c.1 then (a, b) :: c :: rest
    else if c.1 = a then (a, b) :: rest
    else c :: Memory.put rest a b

/-- Take address `a` off the list, so that it reads as its initial byte. -/
def Memory.unlist (m : Memory) (a : Nat) : Memory := m.filter fun c => c.1 != a

/-- `MemWrite(a, 1, b)` (20_memory.md R55). A byte equal to the initial one is not listed, so that equal memories are equal data. -/
def Memory.write (font : Font) (m : Memory) (a : Nat) (b : Byte) : Memory :=
  if b = initialByte font a then m.unlist a else m.put a b

/-- Store the bytes at a, a + 1, … in that order (20_memory.md R51). -/
def Memory.writeBytes (font : Font) : Memory → Nat → List Byte → Memory
  | m, _, [] => m
  | m, a, b :: bs => Memory.writeBytes font (m.write font a b) (a + 1) bs

/-- The canonical form: addresses strictly rising and inside the 4096-byte space (20_memory.md R58), and no listed byte equal to what
its address reads as unlisted. -/
abbrev Memory.wf (font : Font) (m : Memory) : Prop :=
  m.Pairwise (fun c d => c.1 < d.1) ∧ ∀ c ∈ m, c.1 ≤ 0xFFF ∧ c.2 ≠ initialByte font c.1

/-- The byte at address a. Meanings read only addresses that their range check has passed (20_memory.md R60). -/
def State.readByte (s : State) (a : Nat) : Byte := s.mem.read s.cfg.font a

/-- Store bytes from address a up. Meanings store only after their checks have passed (20_memory.md R60, R61). -/
def State.storeBytes (s : State) (a : Nat) (bs : List Byte) : State :=
  { s with mem := s.mem.writeBytes s.cfg.font a bs }

/-! ## Registers, keys and pixels -/

/-- `V[x]` (00_scope.md R12). -/
def State.reg (s : State) (x : Reg) : Byte := s.v[x.val]

/-- `V[x] <- b` (00_scope.md R12). -/
def State.setReg (s : State) (x : Reg) (b : Byte) : State := { s with v := s.v.set x.val b }

/-- `KEY[k]` (00_scope.md R12). -/
def State.key (s : State) (k : Reg) : Bool := s.keys[k.val]

/-- `PIX[r][c]` of a display (00_scope.md R12). -/
def Display.pixel (d : Display) (r : Fin 32) (c : Fin 64) : Bool := d[r.val][c.val]

/-- `PIX[r][c]` (00_scope.md R12). -/
def State.pixel (s : State) (r : Fin 32) (c : Fin 64) : Bool := s.pix.pixel r c

/-! ## The program counter -/

/-- `PC <- (PC + 2) mod 65536` right after the fetch (40_cycle.md R92). -/
def State.advance (s : State) : State := { s with pc := s.pc + 2#16 }

/-- `Skip()`: PC moves past the next instruction, which is not fetched (41_control_flow.md R110). -/
def State.skip (s : State) : State := { s with pc := s.pc + 2#16 }

/-- Skip when the condition holds (41_control_flow.md R114–R117). -/
def State.skipIf (s : State) (c : Bool) : State := if c then s.skip else s

/-- `PC <- target` (00_scope.md R12). -/
def State.jump (s : State) (target : Word) : State := { s with pc := target }

/-- The spec's `at`: the address the running instruction was fetched from, two below PC after the fetch advance (40_cycle.md R92). -/
def State.opcodeAddress (s : State) : Word := s.pc - 2#16

/-- Undo the fetch advance, so that PC holds the running instruction's address again (40_cycle.md R96). -/
def State.rewind (s : State) : State := { s with pc := s.opcodeAddress }

/-! ## Faults (60_exceptions.md R220–R227)

The core takes no exception: there is no trap entry, no vector and no saved register (R226), and none returns (R227). The outcome
`Fault(kind, at, op, info)` is the whole report, and every fault of an instruction is made here. -/

/-- End the step of instruction `i` with a fault that records its address and its opcode (60_exceptions.md R221, R222). -/
def raise (f : Word → Word → Fault) (i : Instr) (s : State) : Host.Outcome State Fault Refusal :=
  .fault (f s.opcodeAddress (encode i))

/-- An instruction that checks before it writes: the fault when a check found one, otherwise its result (40_cycle.md R96). -/
def unlessFault (check : Option (Word → Word → Fault)) (i : Instr) (s result : State) : Host.Outcome State Fault Refusal :=
  match check with
  | some f => raise f i s
  | none => .next result

/-- `CheckRange(I, k)` (20_memory.md R60): nothing when k = 0. -/
def checkRange (s : State) (k : Nat) : Option (Word → Word → Fault) :=
  if 0 < k ∧ 0xFFF < s.i.toNat + k - 1 then
    some fun pc op => .addressOutOfRange pc (some op) (BitVec.ofNat 16 (s.i.toNat + k - 1))
  else none

/-- `CheckStore(I, k)` (20_memory.md R61): the range, then the font. -/
def checkStore (s : State) (k : Nat) : Option (Word → Word → Fault) :=
  match checkRange s k with
  | some f => some f
  | none => if s.i.toNat ≤ 0x04F then some fun pc op => .fontWrite pc op s.i else none

/-! ## The stack (10_state.md R31, R32) -/

/-- The stack holds its 16 entries (10_state.md R31). -/
def State.stackFull (s : State) : Bool := decide (16 ≤ s.stack.length)

/-- `push(v)` appends (00_scope.md R12). -/
def State.push (s : State) (a : Word) : State := { s with stack := s.stack ++ [a] }

/-- The stack without its last element; `pop()` also returns that element (00_scope.md R12). -/
def State.dropTop (s : State) : State := { s with stack := s.stack.dropLast }

/-! ## The display (44_display.md R180) -/

/-- `PIX[r][c] <- PIX[r][c] XOR 1`. -/
def Display.flip (d : Display) (r : Fin 32) (c : Fin 64) : Display :=
  d.set r.val (d[r.val].set c.val (!d[r.val][c.val]))

/-- The display and the collision flag after one set sprite bit has been drawn at (r, c) (44_display.md R182). -/
def drawPixel (r : Fin 32) (c : Fin 64) (acc : Display × Bool) : Display × Bool :=
  (acc.1.flip r c, acc.2 || acc.1.pixel r c)

/-- Draw one sprite row b in display row r from column c0: bit 7 − k goes to column (c0 + k) mod 64 (44_display.md R182, R183). -/
def drawRow (b : Byte) (r : Fin 32) (c0 : Nat) (acc : Display × Bool) : Display × Bool :=
  (List.range 8).foldl
    (fun acc k => if b.getLsbD (7 - k) then drawPixel r (Fin.ofNat 64 (c0 + k)) acc else acc) acc

/-- `RowOf(v)` (44_display.md R184). -/
def rowOf (mode : DrawRowMode) (v : Nat) : Option (Fin 32) :=
  match mode with
  | .wrap => some (Fin.ofNat 32 v)
  | .clip => if v ≤ 31 then some (Fin.ofNat 32 v) else none

/-- The loop of `Dxyn` over sprite rows 0..n−1, row r being the byte `sprite r` (44_display.md R182). -/
def drawSprite (mode : DrawRowMode) (sprite : Nat → Byte) (n r0 c0 : Nat) (d : Display) : Display × Bool :=
  (List.range n).foldl
    (fun acc r =>
      match rowOf mode (r0 + r) with
      | none => acc
      | some row => drawRow (sprite r) row c0 acc) (d, false)

/-! ## Fetching (40_cycle.md R91, R95) -/

/-- `LOAD_OPEN <- false`, the first thing a step does (40_cycle.md R95). -/
def State.closeLoad (s : State) : State := { s with loadOpen := false }

/-- `CheckFetch(PC)` passes: PC + 1 ≤ 0xFFF (20_memory.md R59). -/
def State.fetchable (s : State) : Bool := decide (s.pc.toNat + 1 ≤ 0xFFF)

/-- The opcode at PC (40_cycle.md R91). -/
def State.fetch (s : State) : Word := opcodeOfBytes (s.readByte s.pc.toNat) (s.readByte (s.pc.toNat + 1))

/-- The fault of a fetch that fails its range check: no op, info = PC (20_memory.md R59). -/
def fetchFault (s : State) : Host.Outcome State Fault Refusal := .fault (.addressOutOfRange s.pc none s.pc)

/-- The no-op of an unmatched opcode: only the fetch advance (40_cycle.md R97). -/
def execUnmatched (s : State) : Host.Outcome State Fault Refusal := .next s

/-! ## Placing one instruction where the next fetch reads (log 8) -/

/-- Where the next opcode can be placed: at PC, or at the load address 0x200 when PC can be fetched from nowhere or stands in the
font, which nothing writes (10_state.md R37). -/
def placeAddress (s : State) : Word := if 0x050 ≤ s.pc.toNat ∧ s.pc.toNat + 1 ≤ 0xFFF then s.pc else 0x200#16

/-- The state with the opcode's two bytes placed there, big-endian, and PC at them. -/
def placeOpcode (s : State) (op : Word) : State :=
  ({ s with pc := placeAddress s }).storeBytes (placeAddress s).toNat [highByte op, lowByte op]

end Sys2Proof.Machine
end

