-- ==== Sys2Proof/Machine/Operands.lean ====
section
/-! DEFINITION. The operand forms: index-relative memory operands (43_index_memory.md R161), draw coordinates (44_display.md R182), key
operands (45_keys_timers.md R200) and decimal digits (43_index_memory.md R164). -/

namespace Sys2Proof.Machine

/-- The address of the k-th byte access: I + k, without wrap (43_index_memory.md R161). -/
def indexAddress (s : State) (k : Nat) : Nat := s.i.toNat + k

/-- The byte at I + k. -/
def indexByte (s : State) (k : Nat) : Byte := s.readByte (indexAddress s k)

/-- V0..Vx in order, the bytes LD_MEM_VX stores (43_index_memory.md R165). -/
def registersUpTo (s : State) (x : Reg) : List Byte := s.v.toList.take (x.val + 1)

/-- `for i in 0 .. x: V[i] <- MemRead(I + i, 1)` (43_index_memory.md R166). -/
def loadRegisters (s : State) (x : Reg) : State :=
  (List.range (x.val + 1)).foldl (fun t k => t.setReg (Fin.ofNat 16 k) (indexByte s k)) s

/-- The hundreds, tens and ones digits of a byte (43_index_memory.md R164). -/
def decimalDigits (a : Byte) : List Byte :=
  [BitVec.ofNat 8 (a.toNat / 100), BitVec.ofNat 8 (a.toNat / 10 % 10), BitVec.ofNat 8 (a.toNat % 10)]

/-- The start column, Vx mod 64 (44_display.md R182). -/
def startColumn (s : State) (x : Reg) : Nat := (s.reg x).toNat % 64

/-- The start row, Vy mod 32 (44_display.md R182). -/
def startRow (s : State) (y : Reg) : Nat := (s.reg y).toNat % 32

/-- `KeyAt(v)`: the state of the key v names, or `none` when v names no key (45_keys_timers.md R200). -/
def keyAt (s : State) (v : Byte) : Option Bool := if v.toNat ≤ 15 then some (s.key (Fin.ofNat 16 v.toNat)) else none

/-- The key indices in rising order. -/
def keyIndices : List Reg := [0, 1, 2, 3, 4, 5, 6, 7, 8, 9, 10, 11, 12, 13, 14, 15]

/-- "the least k in 0..15 with KEY[k] == true" (45_keys_timers.md R204). -/
def lowestKeyDown (s : State) : Option Reg := keyIndices.find? fun k => s.key k

end Sys2Proof.Machine
end

