-- ==== Sys2Proof/Machine/Flags.lean ====
section
/-! DEFINITION. The flag computations (42_register_alu.md R143). VF is the only condition code, and the flag is the last write of its
instruction, so that VF ends as the flag also when it is the destination (R130; 10_state.md R25). -/

namespace Sys2Proof.Machine

/-- VF, register 15 (10_state.md R25). -/
def flagRegister : Reg := 15

/-- `c ? 1 : 0`. -/
def flagByte (c : Bool) : Byte := if c then 1#8 else 0#8

/-- Carry of 8xy4: the unbounded sum exceeds 255 (42_register_alu.md R137). -/
def carryFlag (a b : Byte) : Byte := flagByte (decide (255 < a.toNat + b.toNat))

/-- Not-borrow of a − b: 1 iff a ≥ b (42_register_alu.md R138, R140). -/
def notBorrowFlag (a b : Byte) : Byte := flagByte (decide (b.toNat ≤ a.toNat))

/-- The bit that 8xy6 shifts out (42_register_alu.md R139). -/
def shiftedOutFlag (a : Byte) : Byte := BitVec.ofNat 8 (a.toNat % 2)

/-- Index overflow of Fx1E: I + Vx exceeds 0xFFF (43_index_memory.md R162). -/
def indexOverflowFlag (i : Word) (a : Byte) : Byte := flagByte (decide (0xFFF < i.toNat + a.toNat))

/-- The 8-bit sum, mod 256 (42_register_alu.md R132, R137). -/
def sumByte (a b : Byte) : Byte := BitVec.ofNat 8 ((a.toNat + b.toNat) % 256)

/-- The 8-bit difference a − b, mod 256 (42_register_alu.md R138, R140). -/
def differenceByte (a b : Byte) : Byte := BitVec.ofNat 8 ((a.toNat + 256 - b.toNat) % 256)

/-- Logical shift right by one (42_register_alu.md R139). -/
def halfByte (a : Byte) : Byte := BitVec.ofNat 8 (a.toNat / 2)

/-- `VF <- flag` (10_state.md R25). -/
def State.setFlag (s : State) (flag : Byte) : State := s.setReg flagRegister flag

/-- Write the result, then the flag (42_register_alu.md R130). -/
def State.setResultAndFlag (s : State) (x : Reg) (result flag : Byte) : State := (s.setReg x result).setFlag flag

end Sys2Proof.Machine
end

