-- ==== Sys2Proof/Machine/ControlFlow.lean ====
section
/-! DEFINITION. Control transfer (41_control_flow.md). Every meaning runs after the fetch advance, so PC is the address of the next
instruction in memory (R111–R117; log 6). -/

namespace Sys2Proof.Machine

/-- RET (41_control_flow.md R111). -/
def execRet (s : State) : Host.Outcome State Fault Refusal :=
  match s.stack.getLast? with
  | none => raise .stackUnderflow .ret s
  | some a => .next (s.dropTop.jump a)

/-- JP (41_control_flow.md R112). -/
def execJp (nnn : Word) (s : State) : Host.Outcome State Fault Refusal := .next (s.jump nnn)

/-- CALL (41_control_flow.md R113). -/
def execCall (nnn : Word) (s : State) : Host.Outcome State Fault Refusal :=
  if s.stackFull then raise .stackOverflow (.call nnn) s else .next ((s.push s.pc).jump nnn)

/-- SE_BYTE (41_control_flow.md R114). -/
def execSeByte (x : Reg) (nn : Byte) (s : State) : Host.Outcome State Fault Refusal := .next (s.skipIf (s.reg x == nn))

/-- SNE_BYTE (41_control_flow.md R115). -/
def execSneByte (x : Reg) (nn : Byte) (s : State) : Host.Outcome State Fault Refusal := .next (s.skipIf (s.reg x != nn))

/-- SE_REG (41_control_flow.md R116). -/
def execSeReg (x y : Reg) (s : State) : Host.Outcome State Fault Refusal := .next (s.skipIf (s.reg x == s.reg y))

/-- SNE_REG (41_control_flow.md R117). -/
def execSneReg (x y : Reg) (s : State) : Host.Outcome State Fault Refusal := .next (s.skipIf (s.reg x != s.reg y))

end Sys2Proof.Machine
end

