-- ==== Sys2Proof/Machine/DisplayDraw.lean ====
section
/-! DEFINITION. The display instructions (44_display.md). -/

namespace Sys2Proof.Machine

/-- The display drawn on, and DIRTY set (44_display.md R181, R182). -/
def State.setDisplay (s : State) (d : Display) : State := { s with pix := d, dirty := true }

/-- CLS (44_display.md R181). -/
def execCls (s : State) : Host.Outcome State Fault Refusal := .next (s.setDisplay blankDisplay)

/-- What DRW makes of the display, and its collision flag (44_display.md R182). -/
def drawnBy (s : State) (x y : Reg) (n : Nat) : Display × Bool :=
  drawSprite s.cfg.drawRowMode (indexByte s) n (startRow s y) (startColumn s x) s.pix

/-- DRW (44_display.md R182). -/
def execDrw (x y : Reg) (n : Nat) (s : State) : Host.Outcome State Fault Refusal :=
  unlessFault (checkRange s n) (.drw x y n) s
    ((s.setDisplay (drawnBy s x y n).1).setFlag (flagByte (drawnBy s x y n).2))

end Sys2Proof.Machine
end

