-- ==== Sys2Proof/Machine/IndexMemory.lean ====
section
/-! DEFINITION. The index register and memory instructions (43_index_memory.md). I is changed by LD_I, ADD_I_VX and LD_F_VX only (R161). -/

namespace Sys2Proof.Machine

/-- `I <- a` (00_scope.md R12). -/
def State.setIndex (s : State) (a : Word) : State := { s with i := a }

/-- LD_I (43_index_memory.md R160). -/
def execLdI (nnn : Word) (s : State) : Host.Outcome State Fault Refusal := .next (s.setIndex nnn)

/-- ADD_I_VX (43_index_memory.md R162). -/
def execAddIVx (x : Reg) (s : State) : Host.Outcome State Fault Refusal :=
  .next ((s.setIndex (BitVec.ofNat 16 ((s.i.toNat + (s.reg x).toNat) % 4096))).setFlag (indexOverflowFlag s.i (s.reg x)))

/-- LD_F_VX, "no masking of Vx" (43_index_memory.md R163). -/
def execLdFVx (x : Reg) (s : State) : Host.Outcome State Fault Refusal :=
  .next (s.setIndex (BitVec.ofNat 16 ((s.reg x).toNat * 5)))

/-- LD_B_VX (43_index_memory.md R164). -/
def execLdBVx (x : Reg) (s : State) : Host.Outcome State Fault Refusal :=
  unlessFault (checkStore s 3) (.ldBVx x) s (s.storeBytes (indexAddress s 0) (decimalDigits (s.reg x)))

/-- LD_MEM_VX (43_index_memory.md R165). -/
def execLdMemVx (x : Reg) (s : State) : Host.Outcome State Fault Refusal :=
  unlessFault (checkStore s (x.val + 1)) (.ldMemVx x) s (s.storeBytes (indexAddress s 0) (registersUpTo s x))

/-- LD_VX_MEM (43_index_memory.md R166). -/
def execLdVxMem (x : Reg) (s : State) : Host.Outcome State Fault Refusal :=
  unlessFault (checkRange s (x.val + 1)) (.ldVxMem x) s (loadRegisters s x)

end Sys2Proof.Machine
end

