-- ==== Sys2Proof/Machine/KeysTimers.lean ====
section
/-! DEFINITION. The keypad and timer instructions (45_keys_timers.md). -/

namespace Sys2Proof.Machine

/-- A key test names no key: `Fault(KeyIndexOutOfRange, info = Vx)` (45_keys_timers.md R200). -/
def raiseKeyIndex (x : Reg) (i : Instr) (s : State) : Host.Outcome State Fault Refusal :=
  raise (fun pc op => .keyIndexOutOfRange pc op ((s.reg x).setWidth 16)) i s

/-- SKP (45_keys_timers.md R201). -/
def execSkp (x : Reg) (s : State) : Host.Outcome State Fault Refusal :=
  match keyAt s (s.reg x) with
  | none => raiseKeyIndex x (.skp x) s
  | some down => .next (s.skipIf down)

/-- SKNP (45_keys_timers.md R202). -/
def execSknp (x : Reg) (s : State) : Host.Outcome State Fault Refusal :=
  match keyAt s (s.reg x) with
  | none => raiseKeyIndex x (.sknp x) s
  | some down => .next (s.skipIf (!down))

/-- LD_VX_DT (45_keys_timers.md R203). -/
def execLdVxDt (x : Reg) (s : State) : Host.Outcome State Fault Refusal := .next (s.setReg x s.dt)

/-- LD_VX_K (45_keys_timers.md R204). With no key down the step changes nothing and PC is again this opcode's address (R205; 40_cycle.md
R96); the outcome WaitingForKey is told by `completion` (Machine/Transactions.lean). -/
def execLdVxK (x : Reg) (s : State) : Host.Outcome State Fault Refusal :=
  match lowestKeyDown s with
  | none => .next s.rewind
  | some k => .next (s.setReg x (BitVec.ofNat 8 k.val))

/-- LD_DT_VX (45_keys_timers.md R206). -/
def execLdDtVx (x : Reg) (s : State) : Host.Outcome State Fault Refusal := .next { s with dt := s.reg x }

/-- LD_ST_VX (45_keys_timers.md R207). -/
def execLdStVx (x : Reg) (s : State) : Host.Outcome State Fault Refusal := .next { s with st := s.reg x }

end Sys2Proof.Machine
end

