-- ==== Sys2Proof/Machine/RegisterAlu.lean ====
section
/-! DEFINITION. Register loads and the ALU (42_register_alu.md). Operands are read first, then the result is written, then the flag
(R130). None of these faults. -/

namespace Sys2Proof.Machine

/-- LD_BYTE (42_register_alu.md R131). -/
def execLdByte (x : Reg) (nn : Byte) (s : State) : Host.Outcome State Fault Refusal := .next (s.setReg x nn)

/-- ADD_BYTE, without a flag (42_register_alu.md R132). -/
def execAddByte (x : Reg) (nn : Byte) (s : State) : Host.Outcome State Fault Refusal :=
  .next (s.setReg x (sumByte (s.reg x) nn))

/-- LD_REG (42_register_alu.md R133). -/
def execLdReg (x y : Reg) (s : State) : Host.Outcome State Fault Refusal := .next (s.setReg x (s.reg y))

/-- OR, VF not reset (42_register_alu.md R134). -/
def execOr (x y : Reg) (s : State) : Host.Outcome State Fault Refusal := .next (s.setReg x (s.reg x ||| s.reg y))

/-- AND, VF not reset (42_register_alu.md R135). -/
def execAnd (x y : Reg) (s : State) : Host.Outcome State Fault Refusal := .next (s.setReg x (s.reg x &&& s.reg y))

/-- XOR, VF not reset (42_register_alu.md R136). -/
def execXor (x y : Reg) (s : State) : Host.Outcome State Fault Refusal := .next (s.setReg x (s.reg x ^^^ s.reg y))

/-- ADD_REG (42_register_alu.md R137). -/
def execAddReg (x y : Reg) (s : State) : Host.Outcome State Fault Refusal :=
  .next (s.setResultAndFlag x (sumByte (s.reg x) (s.reg y)) (carryFlag (s.reg x) (s.reg y)))

/-- SUB (42_register_alu.md R138). -/
def execSub (x y : Reg) (s : State) : Host.Outcome State Fault Refusal :=
  .next (s.setResultAndFlag x (differenceByte (s.reg x) (s.reg y)) (notBorrowFlag (s.reg x) (s.reg y)))

/-- SHR; "Vy is never read" (42_register_alu.md R139). -/
def execShr (x : Reg) (s : State) : Host.Outcome State Fault Refusal :=
  .next (s.setResultAndFlag x (halfByte (s.reg x)) (shiftedOutFlag (s.reg x)))

/-- SUBN (42_register_alu.md R140). -/
def execSubn (x y : Reg) (s : State) : Host.Outcome State Fault Refusal :=
  .next (s.setResultAndFlag x (differenceByte (s.reg y) (s.reg x)) (notBorrowFlag (s.reg y) (s.reg x)))

end Sys2Proof.Machine
end

