-- ==== Sys2Proof/Machine/Step.lean ====
section
/-! DEFINITION. The step (40_cycle.md R95). -/

namespace Sys2Proof.Machine

/-- One fetch-decode-execute cycle (40_cycle.md R95): LOAD_OPEN is closed, the fetch is checked, the opcode is fetched, PC advances, and the
instruction runs; an unmatched opcode is a no-op (R97). -/
def step (s : State) : Host.Outcome State Fault Refusal :=
  if s.fetchable then
    match decode s.fetch with
    | some i => exec i s.closeLoad.advance
    | none => execUnmatched s.closeLoad.advance
  else fetchFault s

/-- The state with the opcode of a table word placed where `step` fetches next: at PC, or at the load address 0x200 when PC is a place
where no opcode can be put (log 8). It stands for the host's load (70_reset_and_hazards.md R263). -/
def State.withFetchWord (s : State) (nbits w : Nat) : State := placeOpcode s (tableOpcode nbits w)

end Sys2Proof.Machine
end

