-- ==== Sys2Proof/Machine/Transactions.lean ====
section
/-! DEFINITION. The host interface as atomic transactions (60_exceptions.md R240): what each does to the state and what it returns. A
transaction lands between two steps, never inside one (40_cycle.md R100). -/

namespace Sys2Proof.Machine

/-! ## The outcome of a step, as the host sees it (40_cycle.md R90) -/

/-- The four outcomes of a step (40_cycle.md R90). -/
inductive StepOutcome where
  /-- Executed a table row normally. -/
  | Continue
  /-- Unmatched opcode `op` fetched from `pc`, executed as a no-op. -/
  | Unimplemented (op pc : Word)
  /-- Fx0A found no key down; nothing changed. -/
  | WaitingForKey
  /-- The step faulted; nothing changed. -/
  | Fault (f : Fault)
deriving DecidableEq, Repr

/-- The instruction is a key wait and no key is down (45_keys_timers.md R204, R205). -/
def waitsForKey (i : Instr) (s : State) : Bool :=
  match i with
  | .ldVxK _ => (lowestKeyDown s).isNone
  | _ => false

/-- The outcome of a step from `s` that does not fault (40_cycle.md R90, R95). -/
def completion (s : State) : StepOutcome :=
  match decode s.fetch with
  | none => .Unimplemented s.fetch s.pc
  | some i => if waitsForKey i s then .WaitingForKey else .Continue

/-! ## The other transactions -/

/-- The timers' decrement with floor 0 (60_exceptions.md R230, R231). -/
def countDown (t : Byte) : Byte := if 0 < t.toNat then BitVec.ofNat 8 (t.toNat - 1) else t

/-- `tick()` (60_exceptions.md R230). -/
def State.tick (s : State) : State := { s with dt := countDown s.dt, st := countDown s.st }

/-- `setKey(index, pressed)` for an index that names a key (60_exceptions.md R245). -/
def State.setKey (s : State) (k : Reg) (pressed : Bool) : State := { s with keys := s.keys.set k.val pressed }

/-- The bytes fit the program area (70_reset_and_hazards.md R263). -/
def programFits (bytes : List Byte) : Bool := decide (bytes.length ≤ 3584)

/-- A successful `load(bytes)`: the bytes at 0x200 up, and LOAD_OPEN closed (70_reset_and_hazards.md R263). -/
def State.loadProgram (s : State) (bytes : List Byte) : State := (s.storeBytes 0x200 bytes).closeLoad

/-- `consumeDirty()` on the state (60_exceptions.md R249). -/
def State.clearDirty (s : State) : State := { s with dirty := false }

/-- The flattened buffer: cell (r, c) is element r·64 + c (60_exceptions.md R250). -/
def Display.flatten (d : Display) : List Bool := (d.toList.map fun row => row.toList).flatten

/-- The transactions of the host interface (60_exceptions.md R240). -/
inductive Transaction where
  /-- `load(bytes)` (70_reset_and_hazards.md R263–R265). -/
  | load (bytes : List Byte)
  /-- `step()` (40_cycle.md R95). -/
  | step
  /-- `tick()` (60_exceptions.md R230). -/
  | tick
  /-- `setKey(index, pressed)` (60_exceptions.md R245). -/
  | setKey (index : Nat) (pressed : Bool)
  /-- `isDirty()` (60_exceptions.md R248). -/
  | isDirty
  /-- `consumeDirty()` (60_exceptions.md R249). -/
  | consumeDirty
deriving DecidableEq, Repr

/-- What a transaction returns (60_exceptions.md R240). -/
inductive Reply where
  /-- Nothing: tick and setKey. -/
  | done
  /-- load: Ok (70_reset_and_hazards.md R263). -/
  | loaded
  /-- load: Err(CapacityExceeded) (70_reset_and_hazards.md R264). -/
  | capacityExceeded
  /-- step: its outcome (40_cycle.md R90). -/
  | outcome (o : StepOutcome)
  /-- isDirty: DIRTY (60_exceptions.md R248). -/
  | dirty (b : Bool)
  /-- consumeDirty: a copy of PIX (60_exceptions.md R249). -/
  | buffer (d : Display)
deriving DecidableEq, Repr

/-- A call has an effect and a reply, or is refused. -/
inductive CallResult where
  /-- The call is performed: the state after it and its reply. -/
  | performed (s : State) (r : Reply)
  /-- The call breaks a host duty and has no meaning (60_exceptions.md R244). -/
  | refused (r : Refusal)
deriving DecidableEq, Repr

/-- A step as the host calls it. A fault is its reply, and only LOAD_OPEN is then changed (40_cycle.md R95, R96). -/
def performStep (s : State) : CallResult :=
  match step s with
  | .next t => .performed t (.outcome (completion s))
  | .fault f => .performed s.closeLoad (.outcome (.Fault f))
  | .refused r => .refused r

/-- `load(bytes)` (70_reset_and_hazards.md R263–R265). -/
def performLoad (bytes : List Byte) (s : State) : CallResult :=
  if s.loadOpen then
    if programFits bytes then .performed (s.loadProgram bytes) .loaded else .performed s .capacityExceeded
  else .refused .loadClosed

/-- `setKey(index, pressed)`; an index above 15 is refused (60_exceptions.md R245). -/
def performSetKey (index : Nat) (pressed : Bool) (s : State) : CallResult :=
  if index ≤ 15 then .performed (s.setKey (Fin.ofNat 16 index) pressed) .done else .refused (.setKeyIndex index)

/-- Any one transaction (60_exceptions.md R240). -/
def perform (t : Transaction) (s : State) : CallResult :=
  match t with
  | .load bytes => performLoad bytes s
  | .step => performStep s
  | .tick => .performed s.tick .done
  | .setKey index pressed => performSetKey index pressed s
  | .isDirty => .performed s (.dirty s.dirty)
  | .consumeDirty => .performed s.clearDirty (.buffer s.pix)

/-- Any finite sequence of transactions (60_exceptions.md R243): the state after the last, or `none` when one is refused. -/
def performAll : List Transaction → State → Option State
  | [], s => some s
  | t :: ts, s =>
    match perform t s with
    | .performed s' _ => performAll ts s'
    | .refused _ => none

/-- An infinite sequence of transactions, the n-th call at n (60_exceptions.md R243). It is an argument of a run, never part of the
state. -/
abbrev Schedule := Nat → Transaction

/-- The state after the first n calls of a schedule, or `none` when one of them is refused (60_exceptions.md R243, R244). -/
def stateAfter (σ : Schedule) (s : State) : Nat → Option State
  | 0 => some s
  | n + 1 =>
    match stateAfter σ s n with
    | none => none
    | some t =>
      match perform (σ n) t with
      | .performed u _ => some u
      | .refused _ => none

end Sys2Proof.Machine
end

