-- ==== Sys2Proof/Safety.lean ====
section
/-! DEFINITION. What counts as a proper state and a safe run, in the terms claims use. -/

namespace Sys2Proof.Machine

/-- The state invariant: memory is in its canonical form and the font region holds the font (10_state.md R37); I ≤ 0xFFF (R28);
PC ≤ 0x1002 (R30); at most 16 return addresses (R31), each at most 0x1000 (41_control_flow.md R111). -/
abbrev State.Inv (s : State) : Prop :=
  s.mem.wf s.cfg.font ∧ (∀ c ∈ s.mem, 0x050 ≤ c.1) ∧ s.i.toNat ≤ 0xFFF ∧ s.pc.toNat ≤ 0x1002 ∧
    s.stack.length ≤ 16 ∧ (s.stack.all fun a => decide (a.toNat ≤ 0x1000)) = true

/-- The registers an instruction names as its destinations, and VF for the six that define a flag (10_state.md R24, R25). -/
def writesRegister (i : Instr) (r : Reg) : Bool :=
  match i with
  | .cls => false
  | .ret => false
  | .jp _ => false
  | .call _ => false
  | .seByte _ _ => false
  | .sneByte _ _ => false
  | .seReg _ _ => false
  | .ldByte x _ => r == x
  | .addByte x _ => r == x
  | .ldReg x _ => r == x
  | .or x _ => r == x
  | .and x _ => r == x
  | .xor x _ => r == x
  | .addReg x _ => r == x || r == 15
  | .sub x _ => r == x || r == 15
  | .shr x _ => r == x || r == 15
  | .subn x _ => r == x || r == 15
  | .sneReg _ _ => false
  | .ldI _ => false
  | .drw _ _ _ => r == 15
  | .skp _ => false
  | .sknp _ => false
  | .ldVxDt x => r == x
  | .ldVxK x => r == x
  | .ldDtVx _ => false
  | .ldStVx _ => false
  | .addIVx _ => r == 15
  | .ldFVx _ => false
  | .ldBVx _ => false
  | .ldMemVx _ => false
  | .ldVxMem x => decide (r.val ≤ x.val)

/-- How many bytes an instruction stores, from I up (20_memory.md R55). -/
def storedCount (i : Instr) : Nat :=
  match i with
  | .ldBVx _ => 3
  | .ldMemVx x => x.val + 1
  | _ => 0

/-- A pixel (r, c) is the target of a set sprite bit: bit 7 − k of the byte at I + j lands in display row r and column
(Vx mod 64 + k) mod 64, the row being (Vy mod 32 + j) mod 32 under wrap and Vy mod 32 + j under clip (44_display.md R182–R184). -/
def spriteCovers (s : State) (x y : Reg) (n : Nat) (r : Fin 32) (c : Fin 64) : Prop :=
  ∃ j k, j < n ∧ k < 8 ∧
    (match s.cfg.drawRowMode with
      | .wrap => ((s.reg y).toNat % 32 + j) % 32 = r.val
      | .clip => (s.reg y).toNat % 32 + j = r.val) ∧
    ((s.reg x).toNat % 64 + k) % 64 = c.val ∧ (s.readByte (s.i.toNat + j)).getLsbD (7 - k) = true

/-- A step from here does not fault: "a fault as a final, bad end of the run" (60_exceptions.md R223). -/
def State.safeStep (s : State) : Bool :=
  match step s with
  | .next _ => true
  | .fault _ => false
  | .refused _ => false

/-- A run of k steps with no fault (60_exceptions.md R223). -/
def State.safeFor : Nat → State → Bool
  | 0, _ => true
  | k + 1, s =>
    match step s with
    | .next t => State.safeFor k t
    | .fault _ => false
    | .refused _ => false

/-! ## Infinite sequences of transactions -/

/-- No call of the infinite sequence is refused from `s` (60_exceptions.md R243, R244). -/
def admittedFrom (σ : Schedule) (s : State) : Prop := ∀ n, ∃ t, stateAfter σ s n = some t

/-- The first n calls keep the host's duties (60_exceptions.md R244): setKey names a key (R245), and a load comes before any step and
before any load that succeeds (70_reset_and_hazards.md R265). -/
def keepsDuties (σ : Schedule) (n : Nat) : Prop :=
  (∀ m index pressed, m < n → σ m = .setKey index pressed → index ≤ 15) ∧
  (∀ m bytes, m < n → σ m = .load bytes →
    ∀ j, j < m → σ j ≠ .step ∧ ∀ earlier, σ j = .load earlier → 3584 < earlier.length)

/-- A call that keeps coming: the fairness premise of 70_reset_and_hazards.md R275. -/
def keepsComing (σ : Schedule) (tr : Transaction) : Prop := ∀ n, ∃ m, n ≤ m ∧ σ m = tr

end Sys2Proof.Machine
end

