-- ==== Sys2Proof/Certificates/Slice0/Obligations.lean ====
section
/-! DEFINITION. The statements for the provers. `exec i s` runs on the state after the fetch advance, so `s.pc` is the spec's at + 2 and
`s.pc - 2#16` is `at` (40_cycle.md R92; log 6). A statement about every state holds for every FONT and both DRAW_ROW_MODEs, which
`s.cfg` holds (log 3). -/

open Sys2Proof Sys2Proof.Machine

/-! ## Initialisation and invariants -/

/-- The value of every piece of state at initialisation (10_state.md R47; 70_reset_and_hazards.md R260). -/
def Obligations.ResetStateIsAsSpecified : Prop :=
  (∀ a, State.reset.readByte a = if h : a < 80 then State.reset.cfg.font[a] else 0#8) ∧
  (∀ r, State.reset.reg r = 0#8) ∧ State.reset.i = 0#16 ∧ State.reset.pc = 0x200#16 ∧ State.reset.stack = [] ∧
  State.reset.dt = 0#8 ∧ State.reset.st = 0#8 ∧ (∀ k, State.reset.key k = false) ∧
  (∀ r c, State.reset.pixel r c = false) ∧ State.reset.dirty = true ∧ State.reset.loadOpen = true

/-- The initial state satisfies the invariant. -/
def Obligations.ResetSatisfiesTheInvariant : Prop := State.reset.Inv

/-- Every step that goes on keeps the invariant: memory canonical and the font unlisted, I ≤ 0xFFF, PC ≤ 0x1002, at most 16 return
addresses, none above 0x1000 (10_state.md R28, R30, R31, R37, which the spec marks as derived; the canonical form is the model's, log 9). -/
def Obligations.StepKeepsTheInvariant : Prop := ∀ s t, s.Inv → step s = .next t → t.Inv

/-- Every finite sequence of host transactions, none of them refused, keeps the invariant (60_exceptions.md R243; 10_state.md R28, R30, R31,
R37; 41_control_flow.md R111). The canonical form in it is the model's choice (log 9), and so is it that a refused call ends the
sequence (log 13). -/
def Obligations.TransactionSequencesKeepTheInvariant : Prop :=
  ∀ ts s t, s.Inv → performAll ts s = some t → t.Inv

/-- "no operation of the core changes 0x000–0x04F after initialisation", and a store by Fx33 or Fx55 that would write there faults with
FontWrite and writes nothing (10_state.md R37). -/
def Obligations.FontIsNeverChanged : Prop :=
  (∀ ts s t a, s.Inv → performAll ts s = some t → a ≤ 0x04F → t.readByte a = s.readByte a) ∧
  (∀ x s, s.i.toNat ≤ 0x04F → s.pc.toNat + 1 ≤ 0xFFF →
    (decode s.fetch = some (.ldBVx x) ∨ decode s.fetch = some (.ldMemVx x)) →
    performStep s = .performed { s with loadOpen := false } (.outcome (.Fault (.fontWrite s.pc s.fetch s.i))))

/-- Two canonical memories that read alike at every address are the same data. The canonical form is the model's (log 9). -/
def Obligations.CanonicalMemoriesThatReadAlikeAreEqual : Prop :=
  ∀ (font : Font) (m m' : Memory), m.wf font → m'.wf font → (∀ a, m.read font a = m'.read font a) → m = m'

/-! ## Encoding -/

/-- Decoding the opcode of a well-formed instruction gives it back, with every operand at every value its field admits
(30_encoding.md R71, R74, R79). -/
def Obligations.DecodeInvertsEncode : Prop := ∀ i, i.wellFormed = true → decode (encode i) = some i

/-- A decoded instruction is well-formed and its opcode is the one it was decoded from: no bit is dropped (30_encoding.md R71, R74). -/
def Obligations.EncodeInvertsDecode : Prop := ∀ op i, decode op = some i → encode i = op ∧ i.wellFormed = true

/-- The decoder selects the row of the table that the opcode matches, if any, and no opcode matches two rows (30_encoding.md R74, R75). -/
def Obligations.DecoderFollowsTheOpcodeTable : Prop :=
  ∀ op, (decode op).map mnemonicOf = (opcodeTable.find? fun r => r.selects op).map (fun r => r.mnemonic) ∧
    (opcodeTable.filter fun r => r.selects op).length ≤ 1

/-- The unmatched opcodes, family by family (30_encoding.md R76, which the spec marks as derived). -/
def Obligations.UnmatchedOpcodesAreExactlyThese : Prop :=
  ∀ op, decode op = none ↔
    (op.toNat / 0x1000 = 0x0 ∧ op ≠ 0x00E0#16 ∧ op ≠ 0x00EE#16) ∨
    (op.toNat / 0x1000 = 0x5 ∧ op.toNat % 16 ≠ 0) ∨
    (op.toNat / 0x1000 = 0x8 ∧ 8 ≤ op.toNat % 16) ∨
    (op.toNat / 0x1000 = 0x9 ∧ op.toNat % 16 ≠ 0) ∨
    op.toNat / 0x1000 = 0xB ∨ op.toNat / 0x1000 = 0xC ∨
    (op.toNat / 0x1000 = 0xE ∧ op.toNat % 256 ∉ [0x9E, 0xA1]) ∨
    (op.toNat / 0x1000 = 0xF ∧ op.toNat % 256 ∉ [0x07, 0x0A, 0x15, 0x18, 0x1E, 0x29, 0x33, 0x55, 0x65])

/-- Words written out from the spec's patterns decode to the instructions they stand for (30_encoding.md R74, R79). -/
def Obligations.SampleWordsDecode : Prop :=
  decode 0x00EE#16 = some .ret ∧ decode 0x2300#16 = some (.call 0x300#16) ∧ decode 0x3342#16 = some (.seByte 3 0x42#8) ∧
  decode 0x8456#16 = some (.shr 4 5) ∧ decode 0xA2A0#16 = some (.ldI 0x2A0#16) ∧ decode 0xD125#16 = some (.drw 1 2 5) ∧
  decode 0xE19E#16 = some (.skp 1) ∧ decode 0xF50A#16 = some (.ldVxK 5) ∧ decode 0xF255#16 = some (.ldMemVx 2) ∧
  decode 0x812E#16 = none

/-- The fetch combines the bytes at PC and PC + 1 big-endian (20_memory.md R50). -/
def Obligations.FetchIsBigEndian : Prop :=
  ∀ s : State, s.fetch.toNat = (s.readByte s.pc.toNat).toNat * 256 + (s.readByte (s.pc.toNat + 1)).toNat

/-! ## The step -/

/-- A step whose opcode decodes to i runs i on the state with PC past the opcode and LOAD_OPEN closed; where that goes on and is no waiting
Fx0A, the host gets the outcome Continue (40_cycle.md R90–R95). -/
def Obligations.StepRunsTheDecodedInstruction : Prop :=
  (∀ s i, s.pc.toNat + 1 ≤ 0xFFF → decode s.fetch = some i →
    step s = exec i { s with pc := s.pc + 2#16, loadOpen := false }) ∧
  (∀ s i t, s.pc.toNat + 1 ≤ 0xFFF → decode s.fetch = some i →
    exec i { s with pc := s.pc + 2#16, loadOpen := false } = .next t →
    (∀ x, i = .ldVxK x → ∃ k, s.key k = true) → performStep s = .performed t (.outcome .Continue))

/-- Where the two bytes at PC are those of a well-formed instruction, the step runs it (20_memory.md R50; 40_cycle.md R91–R95). -/
def Obligations.StepRunsAnEncodedInstruction : Prop :=
  ∀ s i, i.wellFormed = true → s.pc.toNat + 1 ≤ 0xFFF → s.readByte s.pc.toNat = highByte (encode i) →
    s.readByte (s.pc.toNat + 1) = lowByte (encode i) → step s = exec i { s with pc := s.pc + 2#16, loadOpen := false }

/-- An opcode placed by `withFetchWord` is what the next step runs. It is placed at PC, or at 0x200 where PC cannot be fetched or is in the
font; PC and those two bytes change and nothing else. The placing is the model's own (log 8). -/
def Obligations.PlacedWordRunsNext : Prop :=
  ∀ (s : State) (w : Nat) (i : Instr), decodeTableWord 16 w = some i →
    placeAddress s = (if 0x050 ≤ s.pc.toNat ∧ s.pc.toNat + 1 ≤ 0xFFF then s.pc else 0x200#16) ∧
    s.withFetchWord 16 w = { s with mem := (s.withFetchWord 16 w).mem, pc := placeAddress s } ∧
    (∀ a, a ≠ (placeAddress s).toNat → a ≠ (placeAddress s).toNat + 1 → (s.withFetchWord 16 w).readByte a = s.readByte a) ∧
    step (s.withFetchWord 16 w) = exec i { s.withFetchWord 16 w with pc := placeAddress s + 2#16, loadOpen := false }

/-- An unmatched opcode is a no-op: only the fetch advance (and the host-protocol bit), with outcome `Unimplemented(op, at)`
(40_cycle.md R97). -/
def Obligations.UnmatchedOpcodeIsANoOp : Prop :=
  ∀ s, s.pc.toNat + 1 ≤ 0xFFF → decode s.fetch = none →
    step s = .next { s with pc := s.pc + 2#16, loadOpen := false } ∧
    performStep s = .performed { s with pc := s.pc + 2#16, loadOpen := false } (.outcome (.Unimplemented s.fetch s.pc))

/-- A fetch faults exactly when PC + 1 > 0xFFF, with no op and info = PC, and the step has no other effect (20_memory.md R59). -/
def Obligations.FetchFaultsExactlyPastMemory : Prop :=
  (∀ s p info, step s = .fault (.addressOutOfRange p none info) ↔ 0xFFF < s.pc.toNat + 1 ∧ p = s.pc ∧ info = s.pc) ∧
  (∀ s, 0xFFF < s.pc.toNat + 1 →
    performStep s = .performed { s with loadOpen := false } (.outcome (.Fault (.addressOutOfRange s.pc none s.pc))))

/-- A step whose outcome is Fault or WaitingForKey leaves everything as it was, PC included; LOAD_OPEN is not part of that
(40_cycle.md R96; 10_state.md R44). -/
def Obligations.FaultingAndWaitingStepsChangeNothing : Prop :=
  ∀ s t o, performStep s = .performed t (.outcome o) → (o = .WaitingForKey ∨ ∃ f, o = .Fault f) →
    t = { s with loadOpen := false }

/-- A fault of an instruction records the address and the opcode it was fetched as (60_exceptions.md R221). -/
def Obligations.FaultsRecordAddressAndOpcode : Prop :=
  ∀ s f, s.pc.toNat + 1 ≤ 0xFFF → step s = .fault f → f.address = s.pc ∧ f.opcode = some s.fetch

/-- Which instruction faults, when, and with what (60_exceptions.md R221, R224; 20_memory.md R60, R61). It holds in states no run reaches
too, where the model chose (log 12): CALL faults at a depth of 16 or more, `info` is reduced mod 65536 where I is above 0xFFF, and
n above 15, which no opcode gives, is range-checked alike. -/
def Obligations.InstructionsFaultExactlyWhen : Prop :=
  ∀ i s f, exec i s = .fault f ↔
    (∃ nnn, i = .call nnn ∧ 16 ≤ s.stack.length ∧ f = .stackOverflow (s.pc - 2#16) (encode i)) ∨
    (i = .ret ∧ s.stack = [] ∧ f = .stackUnderflow (s.pc - 2#16) (encode i)) ∨
    (∃ x y n, i = .drw x y n ∧ 0 < n ∧ 0xFFF < s.i.toNat + n - 1 ∧
      f = .addressOutOfRange (s.pc - 2#16) (some (encode i)) (BitVec.ofNat 16 (s.i.toNat + n - 1))) ∨
    (∃ x, i = .ldBVx x ∧ 0xFFF < s.i.toNat + 2 ∧
      f = .addressOutOfRange (s.pc - 2#16) (some (encode i)) (BitVec.ofNat 16 (s.i.toNat + 2))) ∨
    (∃ x : Reg, (i = .ldMemVx x ∨ i = .ldVxMem x) ∧ 0xFFF < s.i.toNat + x.val ∧
      f = .addressOutOfRange (s.pc - 2#16) (some (encode i)) (BitVec.ofNat 16 (s.i.toNat + x.val))) ∨
    (∃ x, (i = .ldBVx x ∨ i = .ldMemVx x) ∧ s.i.toNat ≤ 0x04F ∧ f = .fontWrite (s.pc - 2#16) (encode i) s.i) ∨
    (∃ x, (i = .skp x ∨ i = .sknp x) ∧ 15 < (s.reg x).toNat ∧
      f = .keyIndexOutOfRange (s.pc - 2#16) (encode i) (BitVec.ofNat 16 (s.reg x).toNat))

/-- No step is refused: "Every instruction ... is available in every state" (60_exceptions.md R228), and an unmatched opcode is no
refusal either (30_encoding.md R77). -/
def Obligations.NoStepIsRefused : Prop := ∀ s r, step s ≠ .refused r

/-- A host that calls step again after a fault gets the same fault and the same state (60_exceptions.md R223, which the spec marks as
derived). -/
def Obligations.FaultRepeatsUnchanged : Prop :=
  ∀ s t f, performStep s = .performed t (.outcome (.Fault f)) → performStep t = .performed t (.outcome (.Fault f))

/-! ## Frames, over every instruction -/

/-- Every register other than an instruction's destinations (and VF, where it defines a flag) is unchanged (10_state.md R24, R25). -/
def Obligations.RegistersChangeOnlyWhereNamed : Prop :=
  ∀ i s t r, exec i s = .next t → writesRegister i r = false → t.reg r = s.reg r

/-- Each opcode that defines a flag ends with VF holding it, also when x is 0xF, and every other opcode changes VF only when it names VF
as a destination (10_state.md R25). -/
def Obligations.FlagOpcodesEndWithTheFlag : Prop :=
  (∀ x y s, ∃ t, exec (.addReg x y) s = .next t ∧
    t.reg 15 = if 255 < (s.reg x).toNat + (s.reg y).toNat then 1#8 else 0#8) ∧
  (∀ x y s, ∃ t, exec (.sub x y) s = .next t ∧ t.reg 15 = if (s.reg x).toNat ≥ (s.reg y).toNat then 1#8 else 0#8) ∧
  (∀ x y s, ∃ t, exec (.shr x y) s = .next t ∧ (t.reg 15).toNat = (s.reg x).toNat % 2) ∧
  (∀ x y s, ∃ t, exec (.subn x y) s = .next t ∧ t.reg 15 = if (s.reg y).toNat ≥ (s.reg x).toNat then 1#8 else 0#8) ∧
  (∀ x y n s, n ≤ 15 → (n = 0 ∨ s.i.toNat + n - 1 ≤ 0xFFF) → ∃ t, exec (.drw x y n) s = .next t ∧
    t.reg 15 = if ∃ r c, s.pixel r c = true ∧ t.pixel r c = false then 1#8 else 0#8) ∧
  (∀ x s, ∃ t, exec (.addIVx x) s = .next t ∧ t.reg 15 = if 0xFFF < s.i.toNat + (s.reg x).toNat then 1#8 else 0#8) ∧
  (∀ i s t, exec i s = .next t → t.reg 15 ≠ s.reg 15 →
    (∃ x y, i = .addReg x y ∨ i = .sub x y ∨ i = .shr x y ∨ i = .subn x y ∨ (∃ n, i = .drw x y n) ∨ i = .addIVx x) ∨
    (∃ nn, i = .ldByte 15 nn ∨ i = .addByte 15 nn) ∨
    (∃ y, i = .ldReg 15 y ∨ i = .or 15 y ∨ i = .and 15 y ∨ i = .xor 15 y) ∨
    i = .ldVxDt 15 ∨ i = .ldVxK 15 ∨ i = .ldVxMem 15)

/-- I is written by Annn, Fx1E and Fx29, with their values, and by no other instruction (10_state.md R27). -/
def Obligations.IndexChangedOnlyByItsWriters : Prop :=
  ∀ i s t, exec i s = .next t →
    (∀ nnn, i = .ldI nnn → t.i = nnn) ∧
    (∀ x, i = .addIVx x → t.i.toNat = (s.i.toNat + (s.reg x).toNat) % 4096) ∧
    (∀ x, i = .ldFVx x → t.i.toNat = (s.reg x).toNat * 5) ∧
    ((∀ nnn, i ≠ .ldI nnn) → (∀ x, i ≠ .addIVx x ∧ i ≠ .ldFVx x) → t.i = s.i)

/-- "Only 2nnn pushes and only 00EE pops"; a push at depth 16 and a pop at depth 0 are the explicit faults (10_state.md R31). -/
def Obligations.StackChangedOnlyByCallAndReturn : Prop :=
  (∀ i s t, exec i s = .next t →
    (∀ nnn, i = .call nnn → t.stack = s.stack ++ [s.pc] ∧ t.stack.length ≤ 16) ∧
    (i = .ret → s.stack = t.stack ++ [t.pc]) ∧
    ((∀ nnn, i ≠ .call nnn) → i ≠ .ret → t.stack = s.stack)) ∧
  (∀ nnn s, s.stack.length = 16 → ∃ f, exec (.call nnn) s = .fault f ∧ f.kind = .StackOverflow) ∧
  (∀ s, s.stack.length = 0 → ∃ f, exec .ret s = .fault f ∧ f.kind = .StackUnderflow)

/-- In a step only Fx15 writes DT and only Fx18 writes ST; no instruction changes KEY, LOAD_OPEN or the machine's parameters
(10_state.md R33, R38, R44; 40_cycle.md R98, R99). -/
def Obligations.TimersKeysAndHostBitsUnderInstructions : Prop :=
  ∀ i s t, exec i s = .next t →
    (∀ x, i = .ldDtVx x → t.dt = s.reg x) ∧ ((∀ x, i ≠ .ldDtVx x) → t.dt = s.dt) ∧
    (∀ x, i = .ldStVx x → t.st = s.reg x) ∧ ((∀ x, i ≠ .ldStVx x) → t.st = s.st) ∧
    t.keys = s.keys ∧ t.loadOpen = s.loadOpen ∧ t.cfg = s.cfg

/-- The display is mutated only by 00E0 and Dxyn, both of which set DIRTY, and only consumeDirty clears DIRTY (10_state.md R40, R42). -/
def Obligations.DisplayChangedOnlyByClearAndDraw : Prop :=
  (∀ i s t, exec i s = .next t →
    (i = .cls → t.dirty = true) ∧ (∀ x y n, i = .drw x y n → t.dirty = true) ∧
    (i ≠ .cls → (∀ x y n, i ≠ .drw x y n) → t.pix = s.pix ∧ t.dirty = s.dirty)) ∧
  (∀ tr s t r, perform tr s = .performed t r →
    (tr ≠ .step → t.pix = s.pix) ∧ (tr = .consumeDirty → t.dirty = false) ∧
    (tr ≠ .consumeDirty → s.dirty = true → t.dirty = true) ∧ (tr ≠ .step → tr ≠ .consumeDirty → t.dirty = s.dirty))

/-- Every byte of memory outside the bytes an instruction stores, from I up, reads as before; an instruction that stores nothing leaves
all of memory as it was; of the other transactions only load writes memory, at 0x200 up (10_state.md R20; 20_memory.md R55). -/
def Obligations.MemoryChangedOnlyWhereStored : Prop :=
  (∀ i s t a, exec i s = .next t → ¬(indexAddress s 0 ≤ a ∧ a < indexAddress s 0 + storedCount i) → t.readByte a = s.readByte a) ∧
  (∀ tr s t r a, perform tr s = .performed t r → tr ≠ .step →
    (∀ bytes, tr = .load bytes → ¬(0x200 ≤ a ∧ a < 0x200 + bytes.length)) → t.readByte a = s.readByte a)

/-! ## The instructions -/

/-- CLS clears every pixel and sets DIRTY; nothing else changes (44_display.md R181). -/
def Obligations.ClearDisplayClears : Prop :=
  ∀ s, ∃ t, exec .cls s = .next t ∧ (∀ r c, t.pixel r c = false) ∧ t = { s with pix := t.pix, dirty := true }

/-- RET pops the most recent return address into PC, and faults on the empty stack (41_control_flow.md R111). -/
def Obligations.ReturnPopsOrUnderflows : Prop :=
  (∀ s below a, s.stack = below ++ [a] → exec .ret s = .next { s with pc := a, stack := below }) ∧
  (∀ s, s.stack = [] → exec .ret s = .fault (.stackUnderflow (s.pc - 2#16) 0x00EE#16))

/-- JP sets PC to nnn and changes nothing else (41_control_flow.md R112). -/
def Obligations.JumpSetsPc : Prop := ∀ nnn s, exec (.jp nnn) s = .next { s with pc := nnn }

/-- CALL pushes the address after it and sets PC to nnn, and faults on the full stack (41_control_flow.md R113). -/
def Obligations.CallPushesOrOverflows : Prop :=
  (∀ nnn s, s.stack.length < 16 → exec (.call nnn) s = .next { s with pc := nnn, stack := s.stack ++ [s.pc] }) ∧
  (∀ nnn s, s.stack.length = 16 → exec (.call nnn) s = .fault (.stackOverflow (s.pc - 2#16) (encode (.call nnn))))

/-- The four compare-and-skip instructions skip exactly when their comparison holds, and change nothing but PC
(41_control_flow.md R114–R117). -/
def Obligations.ComparisonsSkip : Prop :=
  ∀ x y nn s,
    exec (.seByte x nn) s = .next { s with pc := if s.reg x = nn then s.pc + 2#16 else s.pc } ∧
    exec (.sneByte x nn) s = .next { s with pc := if s.reg x ≠ nn then s.pc + 2#16 else s.pc } ∧
    exec (.seReg x y) s = .next { s with pc := if s.reg x = s.reg y then s.pc + 2#16 else s.pc } ∧
    exec (.sneReg x y) s = .next { s with pc := if s.reg x ≠ s.reg y then s.pc + 2#16 else s.pc }

/-- The loads and the logic write their result to Vx and nothing else, VF included unless x is 0xF (42_register_alu.md R131–R136). -/
def Obligations.LoadsAndLogicWriteOneRegister : Prop :=
  ∀ x y nn s,
    (∃ t, exec (.ldByte x nn) s = .next t ∧ t = { s with v := t.v } ∧ ∀ r, t.reg r = if r = x then nn else s.reg r) ∧
    (∃ t, exec (.addByte x nn) s = .next t ∧ t = { s with v := t.v } ∧ (∀ r, r ≠ x → t.reg r = s.reg r) ∧
      (t.reg x).toNat = ((s.reg x).toNat + nn.toNat) % 256) ∧
    (∃ t, exec (.ldReg x y) s = .next t ∧ t = { s with v := t.v } ∧ ∀ r, t.reg r = if r = x then s.reg y else s.reg r) ∧
    (∃ t, exec (.or x y) s = .next t ∧ t = { s with v := t.v } ∧
      ∀ r, t.reg r = if r = x then s.reg x ||| s.reg y else s.reg r) ∧
    (∃ t, exec (.and x y) s = .next t ∧ t = { s with v := t.v } ∧
      ∀ r, t.reg r = if r = x then s.reg x &&& s.reg y else s.reg r) ∧
    (∃ t, exec (.xor x y) s = .next t ∧ t = { s with v := t.v } ∧
      ∀ r, t.reg r = if r = x then s.reg x ^^^ s.reg y else s.reg r)

/-- 8xy4: the sum mod 256 and the carry, VF written last; where x is not 0xF the two make up the unbounded sum
(42_register_alu.md R137). -/
def Obligations.AddWithCarry : Prop :=
  ∀ x y s, ∃ t, exec (.addReg x y) s = .next t ∧ t = { s with v := t.v } ∧
    (∀ r, r ≠ x → r ≠ 15 → t.reg r = s.reg r) ∧
    (x ≠ 15 → (t.reg x).toNat = ((s.reg x).toNat + (s.reg y).toNat) % 256) ∧
    t.reg 15 = (if 255 < (s.reg x).toNat + (s.reg y).toNat then 1#8 else 0#8) ∧
    (x ≠ 15 → 256 * (t.reg 15).toNat + (t.reg x).toNat = (s.reg x).toNat + (s.reg y).toNat)

/-- 8xy5 and 8xy7: the difference mod 256 and the not-borrow, VF written last (42_register_alu.md R138, R140). -/
def Obligations.SubtractWithNotBorrow : Prop :=
  ∀ x y s,
    (∃ t, exec (.sub x y) s = .next t ∧ t = { s with v := t.v } ∧ (∀ r, r ≠ x → r ≠ 15 → t.reg r = s.reg r) ∧
      (x ≠ 15 → (t.reg x).toNat = ((s.reg x).toNat + 256 - (s.reg y).toNat) % 256) ∧
      t.reg 15 = (if (s.reg x).toNat ≥ (s.reg y).toNat then 1#8 else 0#8) ∧
      (x ≠ 15 → (t.reg x).toNat + (s.reg y).toNat + 256 * (t.reg 15).toNat = (s.reg x).toNat + 256)) ∧
    (∃ t, exec (.subn x y) s = .next t ∧ t = { s with v := t.v } ∧ (∀ r, r ≠ x → r ≠ 15 → t.reg r = s.reg r) ∧
      (x ≠ 15 → (t.reg x).toNat = ((s.reg y).toNat + 256 - (s.reg x).toNat) % 256) ∧
      t.reg 15 = (if (s.reg y).toNat ≥ (s.reg x).toNat then 1#8 else 0#8) ∧
      (x ≠ 15 → (t.reg x).toNat + (s.reg x).toNat + 256 * (t.reg 15).toNat = (s.reg y).toNat + 256))

/-- 8xy6: Vx div 2 and the bit shifted out, whatever y is, VF written last (42_register_alu.md R139). -/
def Obligations.ShiftRightByOne : Prop :=
  ∀ x y s, ∃ t, exec (.shr x y) s = .next t ∧ t = { s with v := t.v } ∧ (∀ r, r ≠ x → r ≠ 15 → t.reg r = s.reg r) ∧
    (x ≠ 15 → (t.reg x).toNat = (s.reg x).toNat / 2) ∧ (t.reg 15).toNat = (s.reg x).toNat % 2 ∧
    (∀ y', exec (.shr x y') s = exec (.shr x y) s)

/-- The writers of I: nnn; Vx · 5 unmasked; I + Vx mod 4096 with the overflow in VF (43_index_memory.md R160, R162, R163). -/
def Obligations.IndexWritersWriteTheirValue : Prop :=
  (∀ nnn s, exec (.ldI nnn) s = .next { s with i := nnn }) ∧
  (∀ x s, ∃ t, exec (.ldFVx x) s = .next t ∧ t = { s with i := t.i } ∧ t.i.toNat = (s.reg x).toNat * 5) ∧
  (∀ x s, ∃ t, exec (.addIVx x) s = .next t ∧ t = { s with i := t.i, v := t.v } ∧
    t.i.toNat = (s.i.toNat + (s.reg x).toNat) % 4096 ∧
    ∀ r, t.reg r = if r = 15 then (if 0xFFF < s.i.toNat + (s.reg x).toNat then 1#8 else 0#8) else s.reg r)

/-- Fx33 stores the hundreds, tens and ones digits of Vx at I, I + 1, I + 2, which make up Vx; it faults past 0xFFF and in the font
(43_index_memory.md R164). -/
def Obligations.DecimalDigitsAreStored : Prop :=
  (∀ x s, 0x050 ≤ s.i.toNat → s.i.toNat + 2 ≤ 0xFFF →
    ∃ t, exec (.ldBVx x) s = .next t ∧ t = { s with mem := t.mem } ∧
      (t.readByte s.i.toNat).toNat = (s.reg x).toNat / 100 ∧
      (t.readByte (s.i.toNat + 1)).toNat = (s.reg x).toNat / 10 % 10 ∧
      (t.readByte (s.i.toNat + 2)).toNat = (s.reg x).toNat % 10 ∧
      100 * (t.readByte s.i.toNat).toNat + 10 * (t.readByte (s.i.toNat + 1)).toNat + (t.readByte (s.i.toNat + 2)).toNat =
        (s.reg x).toNat ∧
      ∀ a, ¬(s.i.toNat ≤ a ∧ a ≤ s.i.toNat + 2) → t.readByte a = s.readByte a) ∧
  (∀ x s, 0xFFF < s.i.toNat + 2 → exec (.ldBVx x) s =
    .fault (.addressOutOfRange (s.pc - 2#16) (some (encode (.ldBVx x))) (BitVec.ofNat 16 (s.i.toNat + 2)))) ∧
  (∀ x s, s.i.toNat ≤ 0x04F → exec (.ldBVx x) s = .fault (.fontWrite (s.pc - 2#16) (encode (.ldBVx x)) s.i))

/-- Fx55 stores V0..Vx at I..I + x and leaves I; it faults past 0xFFF and in the font (43_index_memory.md R165). -/
def Obligations.RegistersAreStored : Prop :=
  (∀ (x : Reg) s, 0x050 ≤ s.i.toNat → s.i.toNat + x.val ≤ 0xFFF →
    ∃ t, exec (.ldMemVx x) s = .next t ∧ t = { s with mem := t.mem } ∧
      (∀ r : Reg, r.val ≤ x.val → t.readByte (s.i.toNat + r.val) = s.reg r) ∧
      ∀ a, ¬(s.i.toNat ≤ a ∧ a ≤ s.i.toNat + x.val) → t.readByte a = s.readByte a) ∧
  (∀ (x : Reg) s, 0xFFF < s.i.toNat + x.val → exec (.ldMemVx x) s =
    .fault (.addressOutOfRange (s.pc - 2#16) (some (encode (.ldMemVx x))) (BitVec.ofNat 16 (s.i.toNat + x.val)))) ∧
  (∀ x s, s.i.toNat ≤ 0x04F → exec (.ldMemVx x) s = .fault (.fontWrite (s.pc - 2#16) (encode (.ldMemVx x)) s.i))

/-- Fx65 loads V0..Vx from I..I + x, also from the font, and changes nothing else; it faults past 0xFFF (43_index_memory.md R166). -/
def Obligations.RegistersAreLoaded : Prop :=
  (∀ (x : Reg) s, s.i.toNat + x.val ≤ 0xFFF →
    ∃ t, exec (.ldVxMem x) s = .next t ∧ t = { s with v := t.v } ∧
      ∀ r : Reg, t.reg r = if r.val ≤ x.val then s.readByte (s.i.toNat + r.val) else s.reg r) ∧
  (∀ (x : Reg) s, 0xFFF < s.i.toNat + x.val → exec (.ldVxMem x) s =
    .fault (.addressOutOfRange (s.pc - 2#16) (some (encode (.ldVxMem x))) (BitVec.ofNat 16 (s.i.toNat + x.val))))

/-- Dxyn XORs each set sprite bit into its target pixel, reports in VF whether a pixel went from 1 to 0, sets DIRTY and changes nothing
else; it faults when its range passes 0xFFF. Bit 7 is the leftmost pixel (44_display.md R182, R183, R184). -/
def Obligations.DrawXorsTheSprite : Prop :=
  (∀ x y n s, n ≤ 15 → (n = 0 ∨ s.i.toNat + n - 1 ≤ 0xFFF) →
    ∃ t, exec (.drw x y n) s = .next t ∧ t = { s with v := t.v, pix := t.pix, dirty := true } ∧
      (∀ r c, t.pixel r c = true ↔ Xor (s.pixel r c = true) (spriteCovers s x y n r c)) ∧
      (∀ r, r ≠ 15 → t.reg r = s.reg r) ∧
      (t.reg 15 = if ∃ r c, s.pixel r c = true ∧ t.pixel r c = false then 1#8 else 0#8)) ∧
  (∀ x y n s, 0 < n → 0xFFF < s.i.toNat + n - 1 → exec (.drw x y n) s =
    .fault (.addressOutOfRange (s.pc - 2#16) (some (encode (.drw x y n))) (BitVec.ofNat 16 (s.i.toNat + n - 1))))

/-- Drawing the same sprite twice, with coordinates not taken from VF, restores the display. The second draw reports a collision exactly
when the first turned a pixel on, which is what R182 gives; R186's "whenever the sprite has at least one set bit that lands on the
display" is marked as derived there and holds of a draw over pixels that are not all set (44_display.md R182, R186; log 11). -/
def Obligations.DrawTwiceRestoresTheDisplay : Prop :=
  ∀ x y n s t p, x ≠ 15 → y ≠ 15 → n ≤ 15 → exec (.drw x y n) s = .next t →
    ∃ u, exec (.drw x y n) { t with pc := p } = .next u ∧ u.pix = s.pix ∧
      u.reg 15 = if ∃ r c, s.pixel r c = false ∧ t.pixel r c = true then 1#8 else 0#8

/-- A sprite drawn at column 60: bits 7..4 of its j-th byte land on columns 60..63 and bits 3..0 on columns 0..3 of the same row
(44_display.md R187, which the spec marks as derived). -/
def Obligations.DrawWrapsAtColumnSixty : Prop :=
  ∀ x y n s t j (r : Fin 32) (c : Fin 64), (s.reg x).toNat % 64 = 60 → n ≤ 15 → exec (.drw x y n) s = .next t → j < n →
    r.val = (s.reg y).toNat % 32 + j →
    t.pixel r c = (s.pixel r c ^^
      if 60 ≤ c.val then (s.readByte (s.i.toNat + j)).getLsbD (67 - c.val)
      else if c.val < 4 then (s.readByte (s.i.toNat + j)).getLsbD (3 - c.val) else false)

/-- Ex9E and ExA1 skip on the key that Vx names being down or up, and fault when Vx names no key (45_keys_timers.md R200–R202). -/
def Obligations.KeyTestsSkip : Prop :=
  (∀ x (k : Reg) s, (s.reg x).toNat = k.val →
    exec (.skp x) s = .next { s with pc := if s.key k = true then s.pc + 2#16 else s.pc } ∧
    exec (.sknp x) s = .next { s with pc := if s.key k = false then s.pc + 2#16 else s.pc }) ∧
  (∀ x s, 15 < (s.reg x).toNat →
    exec (.skp x) s =
      .fault (.keyIndexOutOfRange (s.pc - 2#16) (encode (.skp x)) (BitVec.ofNat 16 (s.reg x).toNat)) ∧
    exec (.sknp x) s =
      .fault (.keyIndexOutOfRange (s.pc - 2#16) (encode (.sknp x)) (BitVec.ofNat 16 (s.reg x).toNat)))

/-- Fx07 reads DT into Vx; Fx15 and Fx18 write Vx to DT and to ST (45_keys_timers.md R203, R206, R207). -/
def Obligations.TimersAreReadAndWritten : Prop :=
  ∀ x s,
    (∃ t, exec (.ldVxDt x) s = .next t ∧ t = { s with v := t.v } ∧ ∀ r, t.reg r = if r = x then s.dt else s.reg r) ∧
    exec (.ldDtVx x) s = .next { s with dt := s.reg x } ∧ exec (.ldStVx x) s = .next { s with st := s.reg x }

/-- Fx0A takes the least key that is down; with every key up the step's outcome is WaitingForKey and nothing changes
(45_keys_timers.md R204, R205). -/
def Obligations.KeyWaitTakesTheLeastKeyDown : Prop :=
  (∀ x k s, s.key k = true → (∀ j, j < k → s.key j = false) →
    ∃ t, exec (.ldVxK x) s = .next t ∧ t = { s with v := t.v } ∧ (t.reg x).toNat = k.val ∧ ∀ r, r ≠ x → t.reg r = s.reg r) ∧
  (∀ x s, (∀ k, s.key k = false) → exec (.ldVxK x) s = .next { s with pc := s.pc - 2#16 }) ∧
  (∀ x s, (∀ k, s.key k = false) → s.pc.toNat + 1 ≤ 0xFFF → decode s.fetch = some (.ldVxK x) →
    performStep s = .performed { s with loadOpen := false } (.outcome .WaitingForKey))

/-! ## Instructions together -/

/-- "CALL (2nnn) then RETURN (00EE) restores PC to the instruction after the original CALL", and the stack with it
(95_test_vectors.md E6; 41_control_flow.md R111, R113). -/
def Obligations.ReturnUndoesCall : Prop :=
  ∀ nnn s t p, exec (.call nnn) s = .next t → exec .ret { t with pc := p } = .next s

/-- A call to its own address succeeds 16 times from the empty stack, pushing its return address each time, and the 17th faults with
nothing overwritten (41_control_flow.md R113; 95_test_vectors.md E7). -/
def Obligations.SixteenNestedCallsThenOverflow : Prop :=
  ∀ s : State, s.stack = [] → s.pc.toNat + 1 ≤ 0xFFF → decode s.fetch = some (.call s.pc) →
    (∀ k, 1 ≤ k → k ≤ 16 → core.run k s = .next { s with stack := List.replicate k (s.pc + 2#16), loadOpen := false }) ∧
    core.run 17 s = .fault (.stackOverflow s.pc s.fetch)

/-- What Fx55 stored, Fx65 loads back (43_index_memory.md R165, R166). -/
def Obligations.LoadRestoresStoredRegisters : Prop :=
  ∀ (x : Reg) s t t', exec (.ldMemVx x) s = .next t → t'.mem = t.mem → t'.i = s.i → t'.cfg = s.cfg →
    ∃ u, exec (.ldVxMem x) t' = .next u ∧ ∀ r : Reg, r.val ≤ x.val → u.reg r = s.reg r

/-- A store over code is seen by the next fetch: after Fx55 a fetch at I + k reads the registers k and k + 1 (20_memory.md R66). -/
def Obligations.StoredBytesAreFetched : Prop :=
  ∀ (x k k' : Reg) (p : Word) s t, exec (.ldMemVx x) s = .next t → k'.val = k.val + 1 → k'.val ≤ x.val →
    p.toNat = s.i.toNat + k.val →
    ({ t with pc := p } : State).fetch.toNat = (s.reg k).toNat * 256 + (s.reg k').toNat

/-! ## The other transactions -/

/-- tick decrements each timer by 1 if it is above 0, and changes nothing else (60_exceptions.md R230). -/
def Obligations.TickDecrementsBothTimers : Prop :=
  ∀ s, ∃ t, perform .tick s = .performed t .done ∧ t = { s with dt := t.dt, st := t.st } ∧
    t.dt.toNat = (if 0 < s.dt.toNat then s.dt.toNat - 1 else s.dt.toNat) ∧
    t.st.toNat = (if 0 < s.st.toNat then s.st.toNat - 1 else s.st.toNat)

/-- k ticks bring a timer from d to d − k with floor 0: exactly d ticks bring it to 0 and any further tick leaves it there
(60_exceptions.md R232, which the spec marks as derived). -/
def Obligations.TicksCountDownToZero : Prop :=
  ∀ k s, ∃ t, performAll (List.replicate k .tick) s = some t ∧ t = { s with dt := t.dt, st := t.st } ∧
    t.dt.toNat = s.dt.toNat - k ∧ t.st.toNat = s.st.toNat - k

/-- setKey writes one key and nothing else; an index outside 0..15 is refused (60_exceptions.md R245). -/
def Obligations.SetKeyWritesOneKey : Prop :=
  (∀ (k : Reg) pressed s, ∃ t, perform (.setKey k.val pressed) s = .performed t .done ∧ t = { s with keys := t.keys } ∧
    ∀ j, t.key j = if j = k then pressed else s.key j) ∧
  (∀ index pressed s, 15 < index → perform (.setKey index pressed) s = .refused (.setKeyIndex index))

/-- isDirty tells DIRTY and changes nothing; consumeDirty returns PIX, cell (r, c) being element r · 64 + c, and clears DIRTY only; 00E0 and
Dxyn set DIRTY again (60_exceptions.md R248, R249, R250). -/
def Obligations.DirtyProtocol : Prop :=
  (∀ s, perform .isDirty s = .performed s (.dirty s.dirty)) ∧
  (∀ s, ∃ buffer, perform .consumeDirty s = .performed { s with dirty := false } (.buffer buffer) ∧
    ∀ (r : Fin 32) (c : Fin 64), buffer.pixel r c = s.pixel r c ∧ buffer.flatten[r.val * 64 + c.val]? = some (s.pixel r c)) ∧
  (∀ i s t, (i = .cls ∨ ∃ x y n, i = .drw x y n) → exec i s = .next t → t.dirty = true)

/-- load copies its bytes to 0x200 up and closes LOAD_OPEN; too many bytes give CapacityExceeded and change nothing; a load while
LOAD_OPEN is false is refused. LOAD_OPEN is true at initialisation, a load that succeeds and every step close it, nothing opens it
again, and no instruction reads it (70_reset_and_hazards.md R263, R264, R265; 10_state.md R44). -/
def Obligations.LoadCopiesOnceOrNotAtAll : Prop :=
  (∀ bytes s, s.loadOpen = true → bytes.length ≤ 3584 →
    ∃ t, perform (.load bytes) s = .performed t .loaded ∧ t = { s with mem := t.mem, loadOpen := false } ∧
      (∀ k (h : k < bytes.length), t.readByte (0x200 + k) = bytes[k]) ∧
      ∀ a, ¬(0x200 ≤ a ∧ a < 0x200 + bytes.length) → t.readByte a = s.readByte a) ∧
  (∀ bytes s, s.loadOpen = true → 3584 < bytes.length → perform (.load bytes) s = .performed s .capacityExceeded) ∧
  (∀ bytes s, s.loadOpen = false → perform (.load bytes) s = .refused .loadClosed) ∧
  (∀ s t r, perform .step s = .performed t r → t.loadOpen = false) ∧
  State.reset.loadOpen = true ∧
  (∀ tr s t r, perform tr s = .performed t r → s.loadOpen = false → t.loadOpen = false) ∧
  (∀ i s t b, exec i s = .next t → exec i { s with loadOpen := b } = .next { t with loadOpen := b })

/-- A program that runs off its end into zeroed memory: where every byte from PC to 0xFFF reads 0, each step is an unmatched no-op until
PC + 1 passes 0xFFF, and then the fetch faults. Stepping without a load is the case of the initial state, where the 1793rd step
faults at 0x1000 (70_reset_and_hazards.md R267, which the spec marks as derived). -/
def Obligations.RunningOffTheEnd : Prop :=
  (∀ s : State, s.pc.toNat + 1 ≤ 0xFFF → s.readByte s.pc.toNat = 0#8 → s.readByte (s.pc.toNat + 1) = 0#8 →
    performStep s = .performed { s with pc := s.pc + 2#16, loadOpen := false } (.outcome (.Unimplemented 0x0000#16 s.pc))) ∧
  (∀ s : State, (∀ a, s.pc.toNat ≤ a → a ≤ 0xFFF → s.readByte a = 0#8) → ∀ k, s.pc.toNat + 2 * k ≤ 0x1000 →
    (1 ≤ k → core.run k s = .next { s with pc := BitVec.ofNat 16 (s.pc.toNat + 2 * k), loadOpen := false }) ∧
    (0xFFF ≤ s.pc.toNat + 2 * k → core.run (k + 1) s =
      .fault (.addressOutOfRange (BitVec.ofNat 16 (s.pc.toNat + 2 * k)) none (BitVec.ofNat 16 (s.pc.toNat + 2 * k))))) ∧
  (∀ k, 1 ≤ k → k ≤ 1792 →
    core.run k State.reset = .next { State.reset with pc := BitVec.ofNat 16 (0x200 + 2 * k), loadOpen := false }) ∧
  core.run 1793 State.reset = .fault (.addressOutOfRange 0x1000#16 none 0x1000#16)

/-! ## Infinite sequences of transactions -/

/-- "The model therefore admits every finite or infinite sequence of the transactions ... with load constrained by ... R265": while
LOAD_OPEN is true, an infinite sequence is admitted exactly when all its calls keep the host's duties, and a finite one exactly when
its own do (60_exceptions.md R243, R244, R245; 70_reset_and_hazards.md R265). -/
def Obligations.DutifulSequencesAreExactlyTheAdmitted : Prop :=
  (∀ σ s, s.loadOpen = true → (admittedFrom σ s ↔ ∀ n, keepsDuties σ n)) ∧
  (∀ σ n s, s.loadOpen = true → ((∃ t, performAll ((List.range n).map σ) s = some t) ↔ keepsDuties σ n))

/-- A key wait ends: on an admitted infinite schedule on which steps keep coming, where Fx0A stands at PC, a key is down and no key is
set from then on, the first step takes the least key down and moves PC past the instruction (45_keys_timers.md R204, R205;
60_exceptions.md R253; the fairness premise is 70_reset_and_hazards.md R275's). -/
def Obligations.FairSchedulesEndTheKeyWait : Prop :=
  ∀ σ s n t x k, admittedFrom σ s → keepsComing σ .step → stateAfter σ s n = some t → t.loadOpen = false →
    t.pc.toNat + 1 ≤ 0xFFF → decode t.fetch = some (.ldVxK x) →
    (∀ m index pressed, n ≤ m → σ m ≠ .setKey index pressed) → t.key k = true → (∀ j, j < k → t.key j = false) →
    ∃ m u, n ≤ m ∧ σ m = .step ∧ (∀ j, n ≤ j → j < m → σ j ≠ .step) ∧ stateAfter σ s (m + 1) = some u ∧
      u.pc = t.pc + 2#16 ∧ (u.reg x).toNat = k.val
end

