-- ==== Sys2Proof/Laws/State.lean ====
section
/-! SUPPORT. One lemma per field per update of the state, and one per accessor the update leaves alone, so that no proof unfolds a record
update. -/

namespace Sys2Proof.Machine

variable (s : State)

/-! ### setReg -/

@[simp] theorem State.setReg_mem (x : Reg) (b : Byte) : (s.setReg x b).mem = s.mem := rfl
@[simp] theorem State.setReg_v (x : Reg) (b : Byte) : (s.setReg x b).v = s.v.set x.val b := rfl
@[simp] theorem State.setReg_i (x : Reg) (b : Byte) : (s.setReg x b).i = s.i := rfl
@[simp] theorem State.setReg_pc (x : Reg) (b : Byte) : (s.setReg x b).pc = s.pc := rfl
@[simp] theorem State.setReg_stack (x : Reg) (b : Byte) : (s.setReg x b).stack = s.stack := rfl
@[simp] theorem State.setReg_dt (x : Reg) (b : Byte) : (s.setReg x b).dt = s.dt := rfl
@[simp] theorem State.setReg_st (x : Reg) (b : Byte) : (s.setReg x b).st = s.st := rfl
@[simp] theorem State.setReg_keys (x : Reg) (b : Byte) : (s.setReg x b).keys = s.keys := rfl
@[simp] theorem State.setReg_pix (x : Reg) (b : Byte) : (s.setReg x b).pix = s.pix := rfl
@[simp] theorem State.setReg_dirty (x : Reg) (b : Byte) : (s.setReg x b).dirty = s.dirty := rfl
@[simp] theorem State.setReg_loadOpen (x : Reg) (b : Byte) : (s.setReg x b).loadOpen = s.loadOpen := rfl
@[simp] theorem State.setReg_cfg (x : Reg) (b : Byte) : (s.setReg x b).cfg = s.cfg := rfl
@[simp] theorem State.setReg_readByte (x : Reg) (b : Byte) (a : Nat) : (s.setReg x b).readByte a = s.readByte a := rfl
@[simp] theorem State.setReg_key (x : Reg) (b : Byte) (k : Reg) : (s.setReg x b).key k = s.key k := rfl
@[simp] theorem State.setReg_pixel (x : Reg) (b : Byte) (r : Fin 32) (c : Fin 64) : (s.setReg x b).pixel r c = s.pixel r c := rfl

/-! ### storeBytes -/

@[simp] theorem State.storeBytes_mem (p : Nat) (bs : List Byte) : (s.storeBytes p bs).mem = s.mem.writeBytes s.cfg.font p bs := rfl
@[simp] theorem State.storeBytes_v (p : Nat) (bs : List Byte) : (s.storeBytes p bs).v = s.v := rfl
@[simp] theorem State.storeBytes_i (p : Nat) (bs : List Byte) : (s.storeBytes p bs).i = s.i := rfl
@[simp] theorem State.storeBytes_pc (p : Nat) (bs : List Byte) : (s.storeBytes p bs).pc = s.pc := rfl
@[simp] theorem State.storeBytes_stack (p : Nat) (bs : List Byte) : (s.storeBytes p bs).stack = s.stack := rfl
@[simp] theorem State.storeBytes_dt (p : Nat) (bs : List Byte) : (s.storeBytes p bs).dt = s.dt := rfl
@[simp] theorem State.storeBytes_st (p : Nat) (bs : List Byte) : (s.storeBytes p bs).st = s.st := rfl
@[simp] theorem State.storeBytes_keys (p : Nat) (bs : List Byte) : (s.storeBytes p bs).keys = s.keys := rfl
@[simp] theorem State.storeBytes_pix (p : Nat) (bs : List Byte) : (s.storeBytes p bs).pix = s.pix := rfl
@[simp] theorem State.storeBytes_dirty (p : Nat) (bs : List Byte) : (s.storeBytes p bs).dirty = s.dirty := rfl
@[simp] theorem State.storeBytes_loadOpen (p : Nat) (bs : List Byte) : (s.storeBytes p bs).loadOpen = s.loadOpen := rfl
@[simp] theorem State.storeBytes_cfg (p : Nat) (bs : List Byte) : (s.storeBytes p bs).cfg = s.cfg := rfl
@[simp] theorem State.storeBytes_reg (p : Nat) (bs : List Byte) (r : Reg) : (s.storeBytes p bs).reg r = s.reg r := rfl
@[simp] theorem State.storeBytes_key (p : Nat) (bs : List Byte) (k : Reg) : (s.storeBytes p bs).key k = s.key k := rfl
@[simp] theorem State.storeBytes_pixel (p : Nat) (bs : List Byte) (r : Fin 32) (c : Fin 64) : (s.storeBytes p bs).pixel r c = s.pixel r c := rfl

/-! ### advance -/

@[simp] theorem State.advance_mem : (s.advance).mem = s.mem := rfl
@[simp] theorem State.advance_v : (s.advance).v = s.v := rfl
@[simp] theorem State.advance_i : (s.advance).i = s.i := rfl
@[simp] theorem State.advance_pc : (s.advance).pc = s.pc + 2#16 := rfl
@[simp] theorem State.advance_stack : (s.advance).stack = s.stack := rfl
@[simp] theorem State.advance_dt : (s.advance).dt = s.dt := rfl
@[simp] theorem State.advance_st : (s.advance).st = s.st := rfl
@[simp] theorem State.advance_keys : (s.advance).keys = s.keys := rfl
@[simp] theorem State.advance_pix : (s.advance).pix = s.pix := rfl
@[simp] theorem State.advance_dirty : (s.advance).dirty = s.dirty := rfl
@[simp] theorem State.advance_loadOpen : (s.advance).loadOpen = s.loadOpen := rfl
@[simp] theorem State.advance_cfg : (s.advance).cfg = s.cfg := rfl
@[simp] theorem State.advance_reg (r : Reg) : (s.advance).reg r = s.reg r := rfl
@[simp] theorem State.advance_readByte (a : Nat) : (s.advance).readByte a = s.readByte a := rfl
@[simp] theorem State.advance_key (k : Reg) : (s.advance).key k = s.key k := rfl
@[simp] theorem State.advance_pixel (r : Fin 32) (c : Fin 64) : (s.advance).pixel r c = s.pixel r c := rfl

/-! ### skip -/

@[simp] theorem State.skip_mem : (s.skip).mem = s.mem := rfl
@[simp] theorem State.skip_v : (s.skip).v = s.v := rfl
@[simp] theorem State.skip_i : (s.skip).i = s.i := rfl
@[simp] theorem State.skip_pc : (s.skip).pc = s.pc + 2#16 := rfl
@[simp] theorem State.skip_stack : (s.skip).stack = s.stack := rfl
@[simp] theorem State.skip_dt : (s.skip).dt = s.dt := rfl
@[simp] theorem State.skip_st : (s.skip).st = s.st := rfl
@[simp] theorem State.skip_keys : (s.skip).keys = s.keys := rfl
@[simp] theorem State.skip_pix : (s.skip).pix = s.pix := rfl
@[simp] theorem State.skip_dirty : (s.skip).dirty = s.dirty := rfl
@[simp] theorem State.skip_loadOpen : (s.skip).loadOpen = s.loadOpen := rfl
@[simp] theorem State.skip_cfg : (s.skip).cfg = s.cfg := rfl
@[simp] theorem State.skip_reg (r : Reg) : (s.skip).reg r = s.reg r := rfl
@[simp] theorem State.skip_readByte (a : Nat) : (s.skip).readByte a = s.readByte a := rfl
@[simp] theorem State.skip_key (k : Reg) : (s.skip).key k = s.key k := rfl
@[simp] theorem State.skip_pixel (r : Fin 32) (c : Fin 64) : (s.skip).pixel r c = s.pixel r c := rfl

/-! ### jump -/

@[simp] theorem State.jump_mem (target : Word) : (s.jump target).mem = s.mem := rfl
@[simp] theorem State.jump_v (target : Word) : (s.jump target).v = s.v := rfl
@[simp] theorem State.jump_i (target : Word) : (s.jump target).i = s.i := rfl
@[simp] theorem State.jump_pc (target : Word) : (s.jump target).pc = target := rfl
@[simp] theorem State.jump_stack (target : Word) : (s.jump target).stack = s.stack := rfl
@[simp] theorem State.jump_dt (target : Word) : (s.jump target).dt = s.dt := rfl
@[simp] theorem State.jump_st (target : Word) : (s.jump target).st = s.st := rfl
@[simp] theorem State.jump_keys (target : Word) : (s.jump target).keys = s.keys := rfl
@[simp] theorem State.jump_pix (target : Word) : (s.jump target).pix = s.pix := rfl
@[simp] theorem State.jump_dirty (target : Word) : (s.jump target).dirty = s.dirty := rfl
@[simp] theorem State.jump_loadOpen (target : Word) : (s.jump target).loadOpen = s.loadOpen := rfl
@[simp] theorem State.jump_cfg (target : Word) : (s.jump target).cfg = s.cfg := rfl
@[simp] theorem State.jump_reg (target : Word) (r : Reg) : (s.jump target).reg r = s.reg r := rfl
@[simp] theorem State.jump_readByte (target : Word) (a : Nat) : (s.jump target).readByte a = s.readByte a := rfl
@[simp] theorem State.jump_key (target : Word) (k : Reg) : (s.jump target).key k = s.key k := rfl
@[simp] theorem State.jump_pixel (target : Word) (r : Fin 32) (c : Fin 64) : (s.jump target).pixel r c = s.pixel r c := rfl

/-! ### rewind -/

@[simp] theorem State.rewind_mem : (s.rewind).mem = s.mem := rfl
@[simp] theorem State.rewind_v : (s.rewind).v = s.v := rfl
@[simp] theorem State.rewind_i : (s.rewind).i = s.i := rfl
@[simp] theorem State.rewind_pc : (s.rewind).pc = s.pc - 2#16 := rfl
@[simp] theorem State.rewind_stack : (s.rewind).stack = s.stack := rfl
@[simp] theorem State.rewind_dt : (s.rewind).dt = s.dt := rfl
@[simp] theorem State.rewind_st : (s.rewind).st = s.st := rfl
@[simp] theorem State.rewind_keys : (s.rewind).keys = s.keys := rfl
@[simp] theorem State.rewind_pix : (s.rewind).pix = s.pix := rfl
@[simp] theorem State.rewind_dirty : (s.rewind).dirty = s.dirty := rfl
@[simp] theorem State.rewind_loadOpen : (s.rewind).loadOpen = s.loadOpen := rfl
@[simp] theorem State.rewind_cfg : (s.rewind).cfg = s.cfg := rfl
@[simp] theorem State.rewind_reg (r : Reg) : (s.rewind).reg r = s.reg r := rfl
@[simp] theorem State.rewind_readByte (a : Nat) : (s.rewind).readByte a = s.readByte a := rfl
@[simp] theorem State.rewind_key (k : Reg) : (s.rewind).key k = s.key k := rfl
@[simp] theorem State.rewind_pixel (r : Fin 32) (c : Fin 64) : (s.rewind).pixel r c = s.pixel r c := rfl

/-! ### push -/

@[simp] theorem State.push_mem (ret : Word) : (s.push ret).mem = s.mem := rfl
@[simp] theorem State.push_v (ret : Word) : (s.push ret).v = s.v := rfl
@[simp] theorem State.push_i (ret : Word) : (s.push ret).i = s.i := rfl
@[simp] theorem State.push_pc (ret : Word) : (s.push ret).pc = s.pc := rfl
@[simp] theorem State.push_stack (ret : Word) : (s.push ret).stack = s.stack ++ [ret] := rfl
@[simp] theorem State.push_dt (ret : Word) : (s.push ret).dt = s.dt := rfl
@[simp] theorem State.push_st (ret : Word) : (s.push ret).st = s.st := rfl
@[simp] theorem State.push_keys (ret : Word) : (s.push ret).keys = s.keys := rfl
@[simp] theorem State.push_pix (ret : Word) : (s.push ret).pix = s.pix := rfl
@[simp] theorem State.push_dirty (ret : Word) : (s.push ret).dirty = s.dirty := rfl
@[simp] theorem State.push_loadOpen (ret : Word) : (s.push ret).loadOpen = s.loadOpen := rfl
@[simp] theorem State.push_cfg (ret : Word) : (s.push ret).cfg = s.cfg := rfl
@[simp] theorem State.push_reg (ret : Word) (r : Reg) : (s.push ret).reg r = s.reg r := rfl
@[simp] theorem State.push_readByte (ret : Word) (a : Nat) : (s.push ret).readByte a = s.readByte a := rfl
@[simp] theorem State.push_key (ret : Word) (k : Reg) : (s.push ret).key k = s.key k := rfl
@[simp] theorem State.push_pixel (ret : Word) (r : Fin 32) (c : Fin 64) : (s.push ret).pixel r c = s.pixel r c := rfl

/-! ### dropTop -/

@[simp] theorem State.dropTop_mem : (s.dropTop).mem = s.mem := rfl
@[simp] theorem State.dropTop_v : (s.dropTop).v = s.v := rfl
@[simp] theorem State.dropTop_i : (s.dropTop).i = s.i := rfl
@[simp] theorem State.dropTop_pc : (s.dropTop).pc = s.pc := rfl
@[simp] theorem State.dropTop_stack : (s.dropTop).stack = s.stack.dropLast := rfl
@[simp] theorem State.dropTop_dt : (s.dropTop).dt = s.dt := rfl
@[simp] theorem State.dropTop_st : (s.dropTop).st = s.st := rfl
@[simp] theorem State.dropTop_keys : (s.dropTop).keys = s.keys := rfl
@[simp] theorem State.dropTop_pix : (s.dropTop).pix = s.pix := rfl
@[simp] theorem State.dropTop_dirty : (s.dropTop).dirty = s.dirty := rfl
@[simp] theorem State.dropTop_loadOpen : (s.dropTop).loadOpen = s.loadOpen := rfl
@[simp] theorem State.dropTop_cfg : (s.dropTop).cfg = s.cfg := rfl
@[simp] theorem State.dropTop_reg (r : Reg) : (s.dropTop).reg r = s.reg r := rfl
@[simp] theorem State.dropTop_readByte (a : Nat) : (s.dropTop).readByte a = s.readByte a := rfl
@[simp] theorem State.dropTop_key (k : Reg) : (s.dropTop).key k = s.key k := rfl
@[simp] theorem State.dropTop_pixel (r : Fin 32) (c : Fin 64) : (s.dropTop).pixel r c = s.pixel r c := rfl

/-! ### closeLoad -/

@[simp] theorem State.closeLoad_mem : (s.closeLoad).mem = s.mem := rfl
@[simp] theorem State.closeLoad_v : (s.closeLoad).v = s.v := rfl
@[simp] theorem State.closeLoad_i : (s.closeLoad).i = s.i := rfl
@[simp] theorem State.closeLoad_pc : (s.closeLoad).pc = s.pc := rfl
@[simp] theorem State.closeLoad_stack : (s.closeLoad).stack = s.stack := rfl
@[simp] theorem State.closeLoad_dt : (s.closeLoad).dt = s.dt := rfl
@[simp] theorem State.closeLoad_st : (s.closeLoad).st = s.st := rfl
@[simp] theorem State.closeLoad_keys : (s.closeLoad).keys = s.keys := rfl
@[simp] theorem State.closeLoad_pix : (s.closeLoad).pix = s.pix := rfl
@[simp] theorem State.closeLoad_dirty : (s.closeLoad).dirty = s.dirty := rfl
@[simp] theorem State.closeLoad_loadOpen : (s.closeLoad).loadOpen = false := rfl
@[simp] theorem State.closeLoad_cfg : (s.closeLoad).cfg = s.cfg := rfl
@[simp] theorem State.closeLoad_reg (r : Reg) : (s.closeLoad).reg r = s.reg r := rfl
@[simp] theorem State.closeLoad_readByte (a : Nat) : (s.closeLoad).readByte a = s.readByte a := rfl
@[simp] theorem State.closeLoad_key (k : Reg) : (s.closeLoad).key k = s.key k := rfl
@[simp] theorem State.closeLoad_pixel (r : Fin 32) (c : Fin 64) : (s.closeLoad).pixel r c = s.pixel r c := rfl

/-! ### setFlag -/

@[simp] theorem State.setFlag_mem (b : Byte) : (s.setFlag b).mem = s.mem := rfl
@[simp] theorem State.setFlag_v (b : Byte) : (s.setFlag b).v = s.v.set 15 b := rfl
@[simp] theorem State.setFlag_i (b : Byte) : (s.setFlag b).i = s.i := rfl
@[simp] theorem State.setFlag_pc (b : Byte) : (s.setFlag b).pc = s.pc := rfl
@[simp] theorem State.setFlag_stack (b : Byte) : (s.setFlag b).stack = s.stack := rfl
@[simp] theorem State.setFlag_dt (b : Byte) : (s.setFlag b).dt = s.dt := rfl
@[simp] theorem State.setFlag_st (b : Byte) : (s.setFlag b).st = s.st := rfl
@[simp] theorem State.setFlag_keys (b : Byte) : (s.setFlag b).keys = s.keys := rfl
@[simp] theorem State.setFlag_pix (b : Byte) : (s.setFlag b).pix = s.pix := rfl
@[simp] theorem State.setFlag_dirty (b : Byte) : (s.setFlag b).dirty = s.dirty := rfl
@[simp] theorem State.setFlag_loadOpen (b : Byte) : (s.setFlag b).loadOpen = s.loadOpen := rfl
@[simp] theorem State.setFlag_cfg (b : Byte) : (s.setFlag b).cfg = s.cfg := rfl
@[simp] theorem State.setFlag_readByte (b : Byte) (a : Nat) : (s.setFlag b).readByte a = s.readByte a := rfl
@[simp] theorem State.setFlag_key (b : Byte) (k : Reg) : (s.setFlag b).key k = s.key k := rfl
@[simp] theorem State.setFlag_pixel (b : Byte) (r : Fin 32) (c : Fin 64) : (s.setFlag b).pixel r c = s.pixel r c := rfl

/-! ### setResultAndFlag -/

@[simp] theorem State.setResultAndFlag_mem (x : Reg) (b f : Byte) : (s.setResultAndFlag x b f).mem = s.mem := rfl
@[simp] theorem State.setResultAndFlag_v (x : Reg) (b f : Byte) : (s.setResultAndFlag x b f).v = (s.v.set x.val b).set 15 f := rfl
@[simp] theorem State.setResultAndFlag_i (x : Reg) (b f : Byte) : (s.setResultAndFlag x b f).i = s.i := rfl
@[simp] theorem State.setResultAndFlag_pc (x : Reg) (b f : Byte) : (s.setResultAndFlag x b f).pc = s.pc := rfl
@[simp] theorem State.setResultAndFlag_stack (x : Reg) (b f : Byte) : (s.setResultAndFlag x b f).stack = s.stack := rfl
@[simp] theorem State.setResultAndFlag_dt (x : Reg) (b f : Byte) : (s.setResultAndFlag x b f).dt = s.dt := rfl
@[simp] theorem State.setResultAndFlag_st (x : Reg) (b f : Byte) : (s.setResultAndFlag x b f).st = s.st := rfl
@[simp] theorem State.setResultAndFlag_keys (x : Reg) (b f : Byte) : (s.setResultAndFlag x b f).keys = s.keys := rfl
@[simp] theorem State.setResultAndFlag_pix (x : Reg) (b f : Byte) : (s.setResultAndFlag x b f).pix = s.pix := rfl
@[simp] theorem State.setResultAndFlag_dirty (x : Reg) (b f : Byte) : (s.setResultAndFlag x b f).dirty = s.dirty := rfl
@[simp] theorem State.setResultAndFlag_loadOpen (x : Reg) (b f : Byte) : (s.setResultAndFlag x b f).loadOpen = s.loadOpen := rfl
@[simp] theorem State.setResultAndFlag_cfg (x : Reg) (b f : Byte) : (s.setResultAndFlag x b f).cfg = s.cfg := rfl
@[simp] theorem State.setResultAndFlag_readByte (x : Reg) (b f : Byte) (a : Nat) : (s.setResultAndFlag x b f).readByte a = s.readByte a := rfl
@[simp] theorem State.setResultAndFlag_key (x : Reg) (b f : Byte) (k : Reg) : (s.setResultAndFlag x b f).key k = s.key k := rfl
@[simp] theorem State.setResultAndFlag_pixel (x : Reg) (b f : Byte) (r : Fin 32) (c : Fin 64) : (s.setResultAndFlag x b f).pixel r c = s.pixel r c := rfl

/-! ### setIndex -/

@[simp] theorem State.setIndex_mem (j : Word) : (s.setIndex j).mem = s.mem := rfl
@[simp] theorem State.setIndex_v (j : Word) : (s.setIndex j).v = s.v := rfl
@[simp] theorem State.setIndex_i (j : Word) : (s.setIndex j).i = j := rfl
@[simp] theorem State.setIndex_pc (j : Word) : (s.setIndex j).pc = s.pc := rfl
@[simp] theorem State.setIndex_stack (j : Word) : (s.setIndex j).stack = s.stack := rfl
@[simp] theorem State.setIndex_dt (j : Word) : (s.setIndex j).dt = s.dt := rfl
@[simp] theorem State.setIndex_st (j : Word) : (s.setIndex j).st = s.st := rfl
@[simp] theorem State.setIndex_keys (j : Word) : (s.setIndex j).keys = s.keys := rfl
@[simp] theorem State.setIndex_pix (j : Word) : (s.setIndex j).pix = s.pix := rfl
@[simp] theorem State.setIndex_dirty (j : Word) : (s.setIndex j).dirty = s.dirty := rfl
@[simp] theorem State.setIndex_loadOpen (j : Word) : (s.setIndex j).loadOpen = s.loadOpen := rfl
@[simp] theorem State.setIndex_cfg (j : Word) : (s.setIndex j).cfg = s.cfg := rfl
@[simp] theorem State.setIndex_reg (j : Word) (r : Reg) : (s.setIndex j).reg r = s.reg r := rfl
@[simp] theorem State.setIndex_readByte (j : Word) (a : Nat) : (s.setIndex j).readByte a = s.readByte a := rfl
@[simp] theorem State.setIndex_key (j : Word) (k : Reg) : (s.setIndex j).key k = s.key k := rfl
@[simp] theorem State.setIndex_pixel (j : Word) (r : Fin 32) (c : Fin 64) : (s.setIndex j).pixel r c = s.pixel r c := rfl

/-! ### setDisplay -/

@[simp] theorem State.setDisplay_mem (d : Display) : (s.setDisplay d).mem = s.mem := rfl
@[simp] theorem State.setDisplay_v (d : Display) : (s.setDisplay d).v = s.v := rfl
@[simp] theorem State.setDisplay_i (d : Display) : (s.setDisplay d).i = s.i := rfl
@[simp] theorem State.setDisplay_pc (d : Display) : (s.setDisplay d).pc = s.pc := rfl
@[simp] theorem State.setDisplay_stack (d : Display) : (s.setDisplay d).stack = s.stack := rfl
@[simp] theorem State.setDisplay_dt (d : Display) : (s.setDisplay d).dt = s.dt := rfl
@[simp] theorem State.setDisplay_st (d : Display) : (s.setDisplay d).st = s.st := rfl
@[simp] theorem State.setDisplay_keys (d : Display) : (s.setDisplay d).keys = s.keys := rfl
@[simp] theorem State.setDisplay_pix (d : Display) : (s.setDisplay d).pix = d := rfl
@[simp] theorem State.setDisplay_dirty (d : Display) : (s.setDisplay d).dirty = true := rfl
@[simp] theorem State.setDisplay_loadOpen (d : Display) : (s.setDisplay d).loadOpen = s.loadOpen := rfl
@[simp] theorem State.setDisplay_cfg (d : Display) : (s.setDisplay d).cfg = s.cfg := rfl
@[simp] theorem State.setDisplay_reg (d : Display) (r : Reg) : (s.setDisplay d).reg r = s.reg r := rfl
@[simp] theorem State.setDisplay_readByte (d : Display) (a : Nat) : (s.setDisplay d).readByte a = s.readByte a := rfl
@[simp] theorem State.setDisplay_key (d : Display) (k : Reg) : (s.setDisplay d).key k = s.key k := rfl

/-! ### tick -/

@[simp] theorem State.tick_mem : (s.tick).mem = s.mem := rfl
@[simp] theorem State.tick_v : (s.tick).v = s.v := rfl
@[simp] theorem State.tick_i : (s.tick).i = s.i := rfl
@[simp] theorem State.tick_pc : (s.tick).pc = s.pc := rfl
@[simp] theorem State.tick_stack : (s.tick).stack = s.stack := rfl
@[simp] theorem State.tick_dt : (s.tick).dt = countDown s.dt := rfl
@[simp] theorem State.tick_st : (s.tick).st = countDown s.st := rfl
@[simp] theorem State.tick_keys : (s.tick).keys = s.keys := rfl
@[simp] theorem State.tick_pix : (s.tick).pix = s.pix := rfl
@[simp] theorem State.tick_dirty : (s.tick).dirty = s.dirty := rfl
@[simp] theorem State.tick_loadOpen : (s.tick).loadOpen = s.loadOpen := rfl
@[simp] theorem State.tick_cfg : (s.tick).cfg = s.cfg := rfl
@[simp] theorem State.tick_reg (r : Reg) : (s.tick).reg r = s.reg r := rfl
@[simp] theorem State.tick_readByte (a : Nat) : (s.tick).readByte a = s.readByte a := rfl
@[simp] theorem State.tick_key (k : Reg) : (s.tick).key k = s.key k := rfl
@[simp] theorem State.tick_pixel (r : Fin 32) (c : Fin 64) : (s.tick).pixel r c = s.pixel r c := rfl

/-! ### setKey -/

@[simp] theorem State.setKey_mem (q : Reg) (p : Bool) : (s.setKey q p).mem = s.mem := rfl
@[simp] theorem State.setKey_v (q : Reg) (p : Bool) : (s.setKey q p).v = s.v := rfl
@[simp] theorem State.setKey_i (q : Reg) (p : Bool) : (s.setKey q p).i = s.i := rfl
@[simp] theorem State.setKey_pc (q : Reg) (p : Bool) : (s.setKey q p).pc = s.pc := rfl
@[simp] theorem State.setKey_stack (q : Reg) (p : Bool) : (s.setKey q p).stack = s.stack := rfl
@[simp] theorem State.setKey_dt (q : Reg) (p : Bool) : (s.setKey q p).dt = s.dt := rfl
@[simp] theorem State.setKey_st (q : Reg) (p : Bool) : (s.setKey q p).st = s.st := rfl
@[simp] theorem State.setKey_keys (q : Reg) (p : Bool) : (s.setKey q p).keys = s.keys.set q.val p := rfl
@[simp] theorem State.setKey_pix (q : Reg) (p : Bool) : (s.setKey q p).pix = s.pix := rfl
@[simp] theorem State.setKey_dirty (q : Reg) (p : Bool) : (s.setKey q p).dirty = s.dirty := rfl
@[simp] theorem State.setKey_loadOpen (q : Reg) (p : Bool) : (s.setKey q p).loadOpen = s.loadOpen := rfl
@[simp] theorem State.setKey_cfg (q : Reg) (p : Bool) : (s.setKey q p).cfg = s.cfg := rfl
@[simp] theorem State.setKey_reg (q : Reg) (p : Bool) (r : Reg) : (s.setKey q p).reg r = s.reg r := rfl
@[simp] theorem State.setKey_readByte (q : Reg) (p : Bool) (a : Nat) : (s.setKey q p).readByte a = s.readByte a := rfl
@[simp] theorem State.setKey_pixel (q : Reg) (p : Bool) (r : Fin 32) (c : Fin 64) : (s.setKey q p).pixel r c = s.pixel r c := rfl

/-! ### loadProgram -/

@[simp] theorem State.loadProgram_mem (bs : List Byte) : (s.loadProgram bs).mem = s.mem.writeBytes s.cfg.font 0x200 bs := rfl
@[simp] theorem State.loadProgram_v (bs : List Byte) : (s.loadProgram bs).v = s.v := rfl
@[simp] theorem State.loadProgram_i (bs : List Byte) : (s.loadProgram bs).i = s.i := rfl
@[simp] theorem State.loadProgram_pc (bs : List Byte) : (s.loadProgram bs).pc = s.pc := rfl
@[simp] theorem State.loadProgram_stack (bs : List Byte) : (s.loadProgram bs).stack = s.stack := rfl
@[simp] theorem State.loadProgram_dt (bs : List Byte) : (s.loadProgram bs).dt = s.dt := rfl
@[simp] theorem State.loadProgram_st (bs : List Byte) : (s.loadProgram bs).st = s.st := rfl
@[simp] theorem State.loadProgram_keys (bs : List Byte) : (s.loadProgram bs).keys = s.keys := rfl
@[simp] theorem State.loadProgram_pix (bs : List Byte) : (s.loadProgram bs).pix = s.pix := rfl
@[simp] theorem State.loadProgram_dirty (bs : List Byte) : (s.loadProgram bs).dirty = s.dirty := rfl
@[simp] theorem State.loadProgram_loadOpen (bs : List Byte) : (s.loadProgram bs).loadOpen = false := rfl
@[simp] theorem State.loadProgram_cfg (bs : List Byte) : (s.loadProgram bs).cfg = s.cfg := rfl
@[simp] theorem State.loadProgram_reg (bs : List Byte) (r : Reg) : (s.loadProgram bs).reg r = s.reg r := rfl
@[simp] theorem State.loadProgram_key (bs : List Byte) (k : Reg) : (s.loadProgram bs).key k = s.key k := rfl
@[simp] theorem State.loadProgram_pixel (bs : List Byte) (r : Fin 32) (c : Fin 64) : (s.loadProgram bs).pixel r c = s.pixel r c := rfl

/-! ### clearDirty -/

@[simp] theorem State.clearDirty_mem : (s.clearDirty).mem = s.mem := rfl
@[simp] theorem State.clearDirty_v : (s.clearDirty).v = s.v := rfl
@[simp] theorem State.clearDirty_i : (s.clearDirty).i = s.i := rfl
@[simp] theorem State.clearDirty_pc : (s.clearDirty).pc = s.pc := rfl
@[simp] theorem State.clearDirty_stack : (s.clearDirty).stack = s.stack := rfl
@[simp] theorem State.clearDirty_dt : (s.clearDirty).dt = s.dt := rfl
@[simp] theorem State.clearDirty_st : (s.clearDirty).st = s.st := rfl
@[simp] theorem State.clearDirty_keys : (s.clearDirty).keys = s.keys := rfl
@[simp] theorem State.clearDirty_pix : (s.clearDirty).pix = s.pix := rfl
@[simp] theorem State.clearDirty_dirty : (s.clearDirty).dirty = false := rfl
@[simp] theorem State.clearDirty_loadOpen : (s.clearDirty).loadOpen = s.loadOpen := rfl
@[simp] theorem State.clearDirty_cfg : (s.clearDirty).cfg = s.cfg := rfl
@[simp] theorem State.clearDirty_reg (r : Reg) : (s.clearDirty).reg r = s.reg r := rfl
@[simp] theorem State.clearDirty_readByte (a : Nat) : (s.clearDirty).readByte a = s.readByte a := rfl
@[simp] theorem State.clearDirty_key (k : Reg) : (s.clearDirty).key k = s.key k := rfl
@[simp] theorem State.clearDirty_pixel (r : Fin 32) (c : Fin 64) : (s.clearDirty).pixel r c = s.pixel r c := rfl

/-! ### skipIf -/

theorem State.skipIf_eq (c : Bool) : s.skipIf c = { s with pc := if c then s.pc + 2#16 else s.pc } := by cases c <;> rfl

@[simp] theorem State.skipIf_mem (c : Bool) : (s.skipIf c).mem = s.mem := by cases c <;> rfl
@[simp] theorem State.skipIf_v (c : Bool) : (s.skipIf c).v = s.v := by cases c <;> rfl
@[simp] theorem State.skipIf_i (c : Bool) : (s.skipIf c).i = s.i := by cases c <;> rfl
@[simp] theorem State.skipIf_pc (c : Bool) : (s.skipIf c).pc = if c then s.pc + 2#16 else s.pc := by cases c <;> rfl
@[simp] theorem State.skipIf_stack (c : Bool) : (s.skipIf c).stack = s.stack := by cases c <;> rfl
@[simp] theorem State.skipIf_dt (c : Bool) : (s.skipIf c).dt = s.dt := by cases c <;> rfl
@[simp] theorem State.skipIf_st (c : Bool) : (s.skipIf c).st = s.st := by cases c <;> rfl
@[simp] theorem State.skipIf_keys (c : Bool) : (s.skipIf c).keys = s.keys := by cases c <;> rfl
@[simp] theorem State.skipIf_pix (c : Bool) : (s.skipIf c).pix = s.pix := by cases c <;> rfl
@[simp] theorem State.skipIf_dirty (c : Bool) : (s.skipIf c).dirty = s.dirty := by cases c <;> rfl
@[simp] theorem State.skipIf_loadOpen (c : Bool) : (s.skipIf c).loadOpen = s.loadOpen := by cases c <;> rfl
@[simp] theorem State.skipIf_cfg (c : Bool) : (s.skipIf c).cfg = s.cfg := by cases c <;> rfl
@[simp] theorem State.skipIf_reg (cond : Bool) (r : Reg) : (s.skipIf cond).reg r = s.reg r := by cases cond <;> rfl
@[simp] theorem State.skipIf_readByte (cond : Bool) (a : Nat) : (s.skipIf cond).readByte a = s.readByte a := by cases cond <;> rfl
@[simp] theorem State.skipIf_key (cond : Bool) (k : Reg) : (s.skipIf cond).key k = s.key k := by cases cond <;> rfl
@[simp] theorem State.skipIf_pixel (cond : Bool) (r : Fin 32) (c : Fin 64) : (s.skipIf cond).pixel r c = s.pixel r c := by cases cond <;> rfl

end Sys2Proof.Machine
end

