-- ==== Sys2Proof/Laws/Draw.lean ====
section
/-! SUPPORT. What a draw does: its targets are distinct, so its result does not depend on the order in which they are visited
(44_display.md R185). -/

namespace Sys2Proof.Machine

@[simp] theorem Display.pixel_flip (d : Display) (r r' : Fin 32) (c c' : Fin 64) :
    (d.flip r c).pixel r' c' = (d.pixel r' c' ^^ decide (r' = r ∧ c' = c)) := by
  unfold Display.pixel Display.flip
  by_cases hr : r' = r
  · subst hr
    by_cases hc : c' = c
    · subst hc; simp
    · have : c.val ≠ c'.val := fun e => hc (Fin.ext e.symm)
      simp [hc, this]
  · have : r.val ≠ r'.val := fun e => hr (Fin.ext e.symm)
    simp [hr, this]

/-- Two displays with the same pixels are equal. -/
theorem Display.ext (d e : Display) (h : ∀ r c, d.pixel r c = e.pixel r c) : d = e :=
  Vector.ext fun r hr => Vector.ext fun c hc => h ⟨r, hr⟩ ⟨c, hc⟩

/-- Drawing at a list of targets, one after the other. -/
def drawTargets (l : List (Fin 32 × Fin 64)) (acc : Display × Bool) : Display × Bool :=
  l.foldl (fun acc p => drawPixel p.1 p.2 acc) acc

/-- At distinct targets every target pixel is inverted, and the collision flag says whether some target pixel was set
(44_display.md R185). -/
theorem drawTargets_spec (l : List (Fin 32 × Fin 64)) : ∀ (d : Display) (b : Bool), l.Nodup →
    (∀ r c, (drawTargets l (d, b)).1.pixel r c = (d.pixel r c ^^ decide ((r, c) ∈ l))) ∧
    ((drawTargets l (d, b)).2 = true ↔ b = true ∨ ∃ p ∈ l, d.pixel p.1 p.2 = true) := by
  induction l with
  | nil => intro d b _; simp [drawTargets]
  | cons p l ih =>
    intro d b hn
    obtain ⟨hp, hl⟩ := List.nodup_cons.mp hn
    obtain ⟨h1, h2⟩ := ih (d.flip p.1 p.2) (b || d.pixel p.1 p.2) hl
    have e : drawTargets (p :: l) (d, b) = drawTargets l (d.flip p.1 p.2, b || d.pixel p.1 p.2) := rfl
    rw [e]
    refine ⟨fun r c => ?_, ?_⟩
    · rw [h1, Display.pixel_flip]
      by_cases hq : (r, c) = p
      · subst hq; simp [hp]
      · have : ¬(r = p.1 ∧ c = p.2) := fun ⟨h, h'⟩ => hq (Prod.ext h h')
        simp [hq, this]
    · rw [h2]
      have hq : ∀ q ∈ l, (d.flip p.1 p.2).pixel q.1 q.2 = d.pixel q.1 q.2 := fun q hq => by
        have : ¬(q.1 = p.1 ∧ q.2 = p.2) := fun ⟨h, h'⟩ => hp ((Prod.ext h h' : q = p) ▸ hq)
        simp [this]
      constructor
      · rintro (h | ⟨q, hql, h⟩)
        · rcases (Bool.or_eq_true _ _).mp h with h | h
          · exact .inl h
          · exact .inr ⟨p, by simp, h⟩
        · exact .inr ⟨q, by simp [hql], by rwa [hq q hql] at h⟩
      · rintro (h | ⟨q, hql, h⟩)
        · exact .inl (by simp [h])
        · rcases List.mem_cons.mp hql with rfl | hql
          · exact .inl (by simp [h])
          · exact .inr ⟨q, hql, by rwa [hq q hql]⟩

/-- The targets of one sprite row. -/
def rowTargets (b : Byte) (r : Fin 32) (c0 : Nat) : List (Fin 32 × Fin 64) :=
  ((List.range 8).filter fun k => b.getLsbD (7 - k)).map fun k => (r, Fin.ofNat 64 (c0 + k))

/-- The targets of a sprite: where its set bits land (44_display.md R182). -/
def spriteTargets (mode : DrawRowMode) (sprite : Nat → Byte) (n r0 c0 : Nat) : List (Fin 32 × Fin 64) :=
  (List.range n).flatMap fun j =>
    match rowOf mode (r0 + j) with
    | none => []
    | some row => rowTargets (sprite j) row c0

theorem drawRow_eq (b : Byte) (r : Fin 32) (c0 : Nat) (acc : Display × Bool) :
    drawRow b r c0 acc = drawTargets (rowTargets b r c0) acc := by
  simp only [drawRow, drawTargets, rowTargets, List.foldl_map, List.foldl_filter]

theorem drawSprite_eq (mode : DrawRowMode) (sprite : Nat → Byte) (n r0 c0 : Nat) (d : Display) :
    drawSprite mode sprite n r0 c0 d = drawTargets (spriteTargets mode sprite n r0 c0) (d, false) := by
  unfold drawSprite drawTargets spriteTargets
  rw [List.foldl_flatMap]
  congr 1
  funext acc j
  cases rowOf mode (r0 + j) with
  | none => rfl
  | some row => exact drawRow_eq _ _ _ _

theorem mem_spriteTargets (mode : DrawRowMode) (sprite : Nat → Byte) (n r0 c0 : Nat) (r : Fin 32) (c : Fin 64) :
    (r, c) ∈ spriteTargets mode sprite n r0 c0 ↔
      ∃ j k, j < n ∧ k < 8 ∧ rowOf mode (r0 + j) = some r ∧ Fin.ofNat 64 (c0 + k) = c ∧ (sprite j).getLsbD (7 - k) = true := by
  simp only [spriteTargets, List.mem_flatMap, List.mem_range]
  constructor
  · rintro ⟨j, hj, h⟩
    cases hr : rowOf mode (r0 + j) with
    | none => simp [hr] at h
    | some row =>
      simp only [hr, rowTargets, List.mem_map, List.mem_filter, List.mem_range, Prod.mk.injEq] at h
      obtain ⟨k, ⟨hk, hb⟩, rfl, hc⟩ := h
      exact ⟨j, k, hj, hk, hr, hc, hb⟩
  · rintro ⟨j, k, hj, hk, hr, hc, hb⟩
    refine ⟨j, hj, ?_⟩
    simp only [hr, rowTargets, List.mem_map, List.mem_filter, List.mem_range, Prod.mk.injEq]
    exact ⟨k, ⟨hk, hb⟩, trivial, hc⟩

theorem rowOf_injective (mode : DrawRowMode) (r0 j j' : Nat) (row : Fin 32) (hj : j < 32) (hj' : j' < 32)
    (h : rowOf mode (r0 + j) = some row) (h' : rowOf mode (r0 + j') = some row) : j = j' := by
  have e : (r0 + j) % 32 = (r0 + j') % 32 := by
    have key : ∀ v, rowOf mode v = some row → v % 32 = row.val := by
      intro v hv
      cases mode with
      | wrap => simp only [rowOf, Option.some.injEq] at hv; rw [← hv]; rfl
      | clip =>
        simp only [rowOf] at hv
        split at hv
        · rw [← Option.some.inj hv]; rfl
        · simp at hv
    rw [key _ h, key _ h']
  omega

/-- "Within one draw no pixel is targeted twice" (44_display.md R185). -/
theorem spriteTargets_nodup (mode : DrawRowMode) (sprite : Nat → Byte) (n r0 c0 : Nat) (hn : n ≤ 32) :
    (spriteTargets mode sprite n r0 c0).Nodup := by
  unfold spriteTargets
  rw [List.nodup_flatMap]
  constructor
  · intro j _
    cases rowOf mode (r0 + j) with
    | none => simp
    | some row =>
      refine List.Nodup.map_on ?_ (List.nodup_range.filter _)
      intro k hk k' hk' e
      have hk := List.mem_range.mp (List.mem_filter.mp hk).1
      have hk' := List.mem_range.mp (List.mem_filter.mp hk').1
      have e := congrArg Fin.val (Prod.mk.inj e).2
      simp only [Fin.ofNat] at e
      omega
  · refine (List.nodup_range (n := n)).imp_of_mem ?_
    intro j j' hj hj' hne
    have hj := List.mem_range.mp hj
    have hj' := List.mem_range.mp hj'
    simp only [Function.onFun]
    cases h : rowOf mode (r0 + j) with
    | none => simp
    | some row =>
      cases h' : rowOf mode (r0 + j') with
      | none => simp
      | some row' =>
        intro p hp hp'
        simp only [rowTargets, List.mem_map] at hp hp'
        obtain ⟨_, _, rfl⟩ := hp
        obtain ⟨_, _, e⟩ := hp'
        have : row' = row := (Prod.mk.inj e).1
        subst this
        exact hne (rowOf_injective mode r0 j j' row' (by omega) (by omega) h h')

/-- Everything a draw does, pixel by pixel (44_display.md R182, R185). -/
theorem drawSprite_spec (mode : DrawRowMode) (sprite : Nat → Byte) (n r0 c0 : Nat) (d : Display) (hn : n ≤ 32) :
    (∀ r c, (drawSprite mode sprite n r0 c0 d).1.pixel r c =
      (d.pixel r c ^^ decide ((r, c) ∈ spriteTargets mode sprite n r0 c0))) ∧
    ((drawSprite mode sprite n r0 c0 d).2 = true ↔ ∃ p ∈ spriteTargets mode sprite n r0 c0, d.pixel p.1 p.2 = true) := by
  rw [drawSprite_eq]
  have := drawTargets_spec (spriteTargets mode sprite n r0 c0) d false (spriteTargets_nodup mode sprite n r0 c0 hn)
  exact ⟨this.1, this.2.trans (by simp)⟩

end Sys2Proof.Machine
end

