-- ==== Sys2Proof/Laws/Encoding.lean ====
section
/-! SUPPORT. The fields of a packed opcode are the values packed into it (30_encoding.md R71, R79). -/

namespace Sys2Proof

theorem toNat_packNNN (f : Nat) (nnn : Word) (hf : f < 16) (hn : nnn.toNat ≤ 0xFFF) :
    (packNNN f nnn).toNat = f * 0x1000 + nnn.toNat := by
  simp only [packNNN, BitVec.toNat_ofNat]; omega

theorem toNat_packXB (f : Nat) (x : Reg) (low : Nat) (hf : f < 16) (hl : low < 256) :
    (packXB f x low).toNat = f * 0x1000 + x.val * 0x100 + low := by
  have := x.isLt
  simp only [packXB, BitVec.toNat_ofNat]; omega

theorem toNat_packXYN (f : Nat) (x y : Reg) (low : Nat) (hf : f < 16) (hl : low < 16) :
    (packXYN f x y low).toNat = f * 0x1000 + x.val * 0x100 + y.val * 0x10 + low := by
  have := x.isLt
  have := y.isLt
  simp only [packXYN, BitVec.toNat_ofNat]; omega

/-! ## Reading the fields back -/

theorem fieldFamily_packNNN (f : Nat) (nnn : Word) (hf : f < 16) (hn : nnn.toNat ≤ 0xFFF) : fieldFamily (packNNN f nnn) = f := by
  rw [fieldFamily, toNat_packNNN f nnn hf hn]; omega

theorem fieldNNN_packNNN (f : Nat) (nnn : Word) (hf : f < 16) (hn : nnn.toNat ≤ 0xFFF) : fieldNNN (packNNN f nnn) = nnn := by
  rw [fieldNNN, toNat_packNNN f nnn hf hn]
  apply BitVec.eq_of_toNat_eq
  simp only [BitVec.toNat_ofNat]; omega

theorem fieldFamily_packXB (f : Nat) (x : Reg) (low : Nat) (hf : f < 16) (hl : low < 256) : fieldFamily (packXB f x low) = f := by
  have := x.isLt
  rw [fieldFamily, toNat_packXB f x low hf hl]; omega

theorem fieldX_packXB (f : Nat) (x : Reg) (low : Nat) (hf : f < 16) (hl : low < 256) : fieldX (packXB f x low) = x := by
  have := x.isLt
  apply Fin.ext
  show (packXB f x low).toNat / 0x100 % 16 = x.val
  rw [toNat_packXB f x low hf hl]; omega

theorem lowByte_packXB (f : Nat) (x : Reg) (low : Nat) (hf : f < 16) (hl : low < 256) : (packXB f x low).toNat % 0x100 = low := by
  rw [toNat_packXB f x low hf hl]; omega

theorem fieldNN_packXB (f : Nat) (x : Reg) (nn : Byte) (hf : f < 16) : fieldNN (packXB f x nn.toNat) = nn := by
  rw [fieldNN, lowByte_packXB f x nn.toNat hf nn.isLt]
  simp

theorem fieldFamily_packXYN (f : Nat) (x y : Reg) (low : Nat) (hf : f < 16) (hl : low < 16) : fieldFamily (packXYN f x y low) = f := by
  have := x.isLt
  have := y.isLt
  rw [fieldFamily, toNat_packXYN f x y low hf hl]; omega

theorem fieldX_packXYN (f : Nat) (x y : Reg) (low : Nat) (hf : f < 16) (hl : low < 16) : fieldX (packXYN f x y low) = x := by
  have := x.isLt
  have := y.isLt
  apply Fin.ext
  show (packXYN f x y low).toNat / 0x100 % 16 = x.val
  rw [toNat_packXYN f x y low hf hl]; omega

theorem fieldY_packXYN (f : Nat) (x y : Reg) (low : Nat) (hf : f < 16) (hl : low < 16) : fieldY (packXYN f x y low) = y := by
  have := x.isLt
  have := y.isLt
  apply Fin.ext
  show (packXYN f x y low).toNat / 0x10 % 16 = y.val
  rw [toNat_packXYN f x y low hf hl]; omega

theorem fieldN_packXYN (f : Nat) (x y : Reg) (low : Nat) (hf : f < 16) (hl : low < 16) : fieldN (packXYN f x y low) = low := by
  have := y.isLt
  rw [fieldN, toNat_packXYN f x y low hf hl]; omega

/-! ## Packing the fields again -/

theorem packNNN_fields (op : Word) : packNNN (fieldFamily op) (fieldNNN op) = op := by
  apply BitVec.eq_of_toNat_eq
  have := op.isLt
  simp only [packNNN, fieldNNN, fieldFamily, BitVec.toNat_ofNat]; omega

theorem packXB_fields (op : Word) : packXB (fieldFamily op) (fieldX op) (op.toNat % 0x100) = op := by
  apply BitVec.eq_of_toNat_eq
  have := op.isLt
  have e : (fieldX op).val = op.toNat / 0x100 % 16 := rfl
  simp only [packXB, e, fieldFamily, BitVec.toNat_ofNat]; omega

theorem packXYN_fields (op : Word) : packXYN (fieldFamily op) (fieldX op) (fieldY op) (fieldN op) = op := by
  apply BitVec.eq_of_toNat_eq
  have := op.isLt
  have e : (fieldX op).val = op.toNat / 0x100 % 16 := rfl
  have e' : (fieldY op).val = op.toNat / 0x10 % 16 := rfl
  simp only [packXYN, e, e', fieldN, fieldFamily, BitVec.toNat_ofNat]; omega

/-! ## Bytes -/

/-- An opcode is the big-endian combination of its two bytes (20_memory.md R50). -/
theorem opcodeOfBytes_bytes (op : Word) : opcodeOfBytes (highByte op) (lowByte op) = op := by
  apply BitVec.eq_of_toNat_eq
  have := op.isLt
  simp only [opcodeOfBytes, highByte, lowByte, BitVec.toNat_ofNat]; omega

theorem toNat_opcodeOfBytes (hi lo : Byte) : (opcodeOfBytes hi lo).toNat = hi.toNat * 256 + lo.toNat := by
  have := hi.isLt
  have := lo.isLt
  simp only [opcodeOfBytes, BitVec.toNat_ofNat]; omega

end Sys2Proof
end

