-- ==== Sys2Proof/Laws/Memory.lean ====
section
/-! SUPPORT. The laws of memory: a read after a write, a write leaves other addresses alone, every write keeps the canonical form, and two
canonical memories that read alike are equal (20_memory.md R55, R64). -/

namespace Sys2Proof.Machine

theorem Memory.read_put (font : Font) (m : Memory) (a : Nat) (b : Byte) (q : Nat) :
    (m.put a b).read font q = if q = a then b else m.read font q := by
  induction m with
  | nil => simp [Memory.put, Memory.read, eq_comm]
  | cons c rest ih =>
    simp only [Memory.put]
    split
    · by_cases hq : q = a
      · simp [Memory.read, hq]
      · simp [Memory.read, hq, Ne.symm hq]
    · split
      · rename_i h1 h2
        by_cases hq : q = a
        · simp [Memory.read, hq]
        · simp [Memory.read, hq, h2, Ne.symm hq]
      · rename_i h1 h2
        simp only [Memory.read, ih]
        by_cases hq : q = a
        · simp [hq, h2]
        · simp [hq]

theorem Memory.read_unlisted (font : Font) (m : Memory) (a : Nat) (h : ∀ c ∈ m, c.1 ≠ a) : m.read font a = initialByte font a := by
  induction m with
  | nil => rfl
  | cons c rest ih =>
    simp only [Memory.read]
    rw [if_neg (h c (by simp))]
    exact ih fun d hd => h d (by simp [hd])

theorem Memory.read_unlist (font : Font) (m : Memory) (a q : Nat) :
    (m.unlist a).read font q = if q = a then initialByte font a else m.read font q := by
  by_cases hq : q = a
  · subst hq
    simp only [if_pos]
    exact Memory.read_unlisted font _ _ fun c hc => by simpa [Memory.unlist] using (List.mem_filter.mp hc).2
  · rw [if_neg hq]
    induction m with
    | nil => rfl
    | cons c rest ih =>
      by_cases hc : c.1 = a
      · have : (Memory.unlist (c :: rest) a) = Memory.unlist rest a := by simp [Memory.unlist, hc]
        rw [this, ih, Memory.read, if_neg (by rw [hc]; exact Ne.symm hq)]
      · have : (Memory.unlist (c :: rest) a) = c :: Memory.unlist rest a := by simp [Memory.unlist, hc]
        simp only [this, Memory.read, ih]

/-- A read after a write: the byte written at its address, every other byte as before. -/
theorem Memory.read_write (font : Font) (m : Memory) (a : Nat) (b : Byte) (q : Nat) :
    (m.write font a b).read font q = if q = a then b else m.read font q := by
  unfold Memory.write
  split
  · rename_i h; rw [Memory.read_unlist, h]
  · exact Memory.read_put font m a b q

theorem Memory.mem_put (m : Memory) (a : Nat) (b : Byte) (c : Host.Cell) (h : c ∈ m.put a b) : c = (a, b) ∨ c ∈ m := by
  induction m with
  | nil => simpa [Memory.put] using h
  | cons d rest ih =>
    simp only [Memory.put] at h
    split at h
    · simpa using h
    · split at h
      · rcases List.mem_cons.mp h with h | h
        · exact .inl h
        · exact .inr (by simp [h])
      · rcases List.mem_cons.mp h with h | h
        · exact .inr (by simp [h])
        · exact (ih h).imp id fun h => by simp [h]

theorem Memory.put_rising (m : Memory) (a : Nat) (b : Byte) (hm : m.Pairwise (fun c d => c.1 < d.1)) :
    (m.put a b).Pairwise (fun c d => c.1 < d.1) := by
  induction m with
  | nil => simp [Memory.put]
  | cons d rest ih =>
    obtain ⟨hd, hr⟩ := List.pairwise_cons.mp hm
    simp only [Memory.put]
    split
    · rename_i h
      refine List.pairwise_cons.mpr ⟨fun c hc => ?_, hm⟩
      rcases List.mem_cons.mp hc with hc | hc
      · simpa [hc] using h
      · exact lt_trans h (hd c hc)
    · split
      · rename_i h1 h2
        exact List.pairwise_cons.mpr ⟨fun c hc => by simpa [← h2] using hd c hc, hr⟩
      · rename_i h1 h2
        refine List.pairwise_cons.mpr ⟨fun c hc => ?_, ih hr⟩
        rcases Memory.mem_put rest a b c hc with hc | hc
        · subst hc; simp only; omega
        · exact hd c hc

/-- A write inside the address space keeps the canonical form. -/
theorem Memory.write_wf (font : Font) (m : Memory) (a : Nat) (b : Byte) (hm : m.wf font) (ha : a ≤ 0xFFF) :
    (m.write font a b).wf font := by
  unfold Memory.write
  split
  · exact ⟨hm.1.sublist List.filter_sublist, fun c hc => hm.2 c (List.mem_filter.mp hc).1⟩
  · rename_i hb
    refine ⟨Memory.put_rising m a b hm.1, fun c hc => ?_⟩
    rcases Memory.mem_put m a b c hc with hc | hc
    · subst hc; exact ⟨ha, hb⟩
    · exact hm.2 c hc

/-- A write at or above 0x050 lists nothing in the font region. -/
theorem Memory.write_above (font : Font) (m : Memory) (a : Nat) (b : Byte) (lo : Nat) (hm : ∀ c ∈ m, lo ≤ c.1) (ha : lo ≤ a) :
    ∀ c ∈ m.write font a b, lo ≤ c.1 := by
  intro c hc
  unfold Memory.write at hc
  split at hc
  · exact hm c (List.mem_filter.mp hc).1
  · rcases Memory.mem_put m a b c hc with hc | hc
    · subst hc; exact ha
    · exact hm c hc

theorem Memory.writeBytes_wf (font : Font) (bs : List Byte) : ∀ (m : Memory) (a : Nat), m.wf font → a + bs.length ≤ 0x1000 →
    (m.writeBytes font a bs).wf font := by
  induction bs with
  | nil => intro m a hm _; exact hm
  | cons b bs ih =>
    intro m a hm ha
    simp only [List.length_cons] at ha
    exact ih _ _ (Memory.write_wf font m a b hm (by omega)) (by omega)

theorem Memory.writeBytes_above (font : Font) (lo : Nat) (bs : List Byte) : ∀ (m : Memory) (a : Nat), (∀ c ∈ m, lo ≤ c.1) → lo ≤ a →
    ∀ c ∈ m.writeBytes font a bs, lo ≤ c.1 := by
  induction bs with
  | nil => intro m a hm _; exact hm
  | cons b bs ih => intro m a hm ha; exact ih _ _ (Memory.write_above font m a b lo hm ha) (by omega)

/-- What writing bytes from address a up does, all of it: address a + k reads as the k-th byte, every other as before. -/
theorem Memory.read_writeBytes (font : Font) (bs : List Byte) : ∀ (m : Memory) (a q : Nat),
    (m.writeBytes font a bs).read font q = if h : a ≤ q ∧ q < a + bs.length then bs[q - a] else m.read font q := by
  induction bs with
  | nil => intro m a q; simp only [Memory.writeBytes, List.length_nil]; rw [dif_neg (by omega)]
  | cons b bs ih =>
    intro m a q
    simp only [List.length_cons]
    rw [Memory.writeBytes, ih, Memory.read_write font m a b q]
    by_cases h1 : q = a
    · subst h1
      rw [dif_neg (by omega), dif_pos (by omega)]
      simp
    · by_cases h2 : a + 1 ≤ q ∧ q < a + 1 + bs.length
      · rw [dif_pos h2, dif_pos (by omega)]
        have : q - a = (q - (a + 1)) + 1 := by omega
        simp [this]
      · rw [dif_neg h2, dif_neg (by omega), if_neg h1]

/-- Every address that the canonical list holds reads as listed. -/
theorem Memory.read_listed (font : Font) (m : Memory) (c : Host.Cell) (hm : m.Pairwise (fun c d => c.1 < d.1)) (hc : c ∈ m) :
    m.read font c.1 = c.2 := by
  induction m with
  | nil => simp at hc
  | cons d rest ih =>
    obtain ⟨hd, hr⟩ := List.pairwise_cons.mp hm
    rcases List.mem_cons.mp hc with h | h
    · subst h; simp [Memory.read]
    · have := hd c h
      rw [Memory.read, if_neg (by omega), ih hr h]

end Sys2Proof.Machine
end

