-- ==== Sys2Proof/Laws/Registers.lean ====
section
/-! SUPPORT. What reading a register, a key or a list of registers gives after each operation that writes one. -/

namespace Sys2Proof.Machine

@[simp] theorem State.reg_setReg (s : State) (x r : Reg) (b : Byte) : (s.setReg x b).reg r = if r = x then b else s.reg r := by
  unfold State.reg State.setReg
  by_cases h : r = x
  · simp [h]
  · have : x.val ≠ r.val := fun e => h (Fin.ext e.symm)
    simp [h, this]

@[simp] theorem State.reg_setFlag (s : State) (r : Reg) (b : Byte) : (s.setFlag b).reg r = if r = 15 then b else s.reg r :=
  State.reg_setReg s 15 r b

/-- The flag is written last: register 15 ends as the flag, also when it is the destination (42_register_alu.md R130). -/
@[simp] theorem State.reg_setResultAndFlag (s : State) (x r : Reg) (b f : Byte) :
    (s.setResultAndFlag x b f).reg r = if r = 15 then f else if r = x then b else s.reg r := by
  simp [State.setResultAndFlag]

@[simp] theorem State.key_setKey (s : State) (q k : Reg) (p : Bool) : (s.setKey q p).key k = if k = q then p else s.key k := by
  unfold State.key State.setKey
  by_cases h : k = q
  · simp [h]
  · have : q.val ≠ k.val := fun e => h (Fin.ext e.symm)
    simp [h, this]

@[simp] theorem State.pixel_setDisplay (s : State) (d : Display) (r : Fin 32) (c : Fin 64) : (s.setDisplay d).pixel r c = d.pixel r c :=
  rfl

/-- Two register files that read alike are equal. -/
theorem State.v_ext (s t : State) (h : ∀ r : Reg, s.reg r = t.reg r) : s.v = t.v :=
  Vector.ext fun k hk => h ⟨k, hk⟩

@[simp] theorem registersUpTo_length (s : State) (x : Reg) : (registersUpTo s x).length = x.val + 1 := by
  simp [registersUpTo]

/-- The k-th byte LD_MEM_VX stores is Vk (43_index_memory.md R165). -/
theorem registersUpTo_getElem (s : State) (x : Reg) (k : Nat) (h : k < (registersUpTo s x).length) :
    (registersUpTo s x)[k] = s.reg ⟨k, by have := x.isLt; simp at h; omega⟩ := by
  simp [registersUpTo, State.reg]

/-- What reading registers one after the other leaves: register r < n holds `f r`, the others are as before, and nothing but V changes. -/
theorem foldl_setReg (f : Nat → Byte) (s : State) : ∀ n, n ≤ 16 →
    let t := (List.range n).foldl (fun t k => t.setReg (Fin.ofNat 16 k) (f k)) s
    (∀ r : Reg, t.reg r = if r.val < n then f r.val else s.reg r) ∧ t = { s with v := t.v } := by
  intro n
  induction n with
  | zero => intro _; exact ⟨fun r => by simp, rfl⟩
  | succ n ih =>
    intro hn
    obtain ⟨h1, h2⟩ := ih (by omega)
    simp only [List.range_succ, List.foldl_append, List.foldl_cons, List.foldl_nil]
    refine ⟨fun r => ?_, ?_⟩
    · rw [State.reg_setReg, h1]
      by_cases hr : r.val = n
      · have : r = Fin.ofNat 16 n := Fin.ext (by simp [Fin.ofNat]; omega)
        rw [if_pos this, if_pos (by omega), hr]
      · have : r ≠ Fin.ofNat 16 n := fun e => hr (by have := congrArg Fin.val e; simp [Fin.ofNat] at this; omega)
        rw [if_neg this]
        by_cases hlt : r.val < n
        · rw [if_pos hlt, if_pos (by omega)]
        · rw [if_neg hlt, if_neg (by omega)]
    · conv_lhs => rw [h2]
      rfl

/-- Everything LD_VX_MEM does to the registers (43_index_memory.md R166). -/
theorem loadRegisters_reg (s : State) (x r : Reg) :
    (loadRegisters s x).reg r = if r.val ≤ x.val then indexByte s r.val else s.reg r := by
  have := (foldl_setReg (indexByte s) s (x.val + 1) (by have := x.isLt; omega)).1 r
  simpa [loadRegisters, Nat.lt_succ_iff] using this

/-- LD_VX_MEM changes nothing but V (43_index_memory.md R161, R166). -/
theorem loadRegisters_frame (s : State) (x : Reg) : loadRegisters s x = { s with v := (loadRegisters s x).v } :=
  (foldl_setReg (indexByte s) s (x.val + 1) (by have := x.isLt; omega)).2

/-- The key test's operand names a key iff it is at most 15 (45_keys_timers.md R200). -/
theorem keyAt_eq_none (s : State) (v : Byte) : keyAt s v = none ↔ 15 < v.toNat := by
  unfold keyAt; split <;> simp <;> omega

theorem keyAt_eq_some (s : State) (v : Byte) (d : Bool) : keyAt s v = some d ↔ v.toNat ≤ 15 ∧ s.key (Fin.ofNat 16 v.toNat) = d := by
  unfold keyAt; split <;> simp_all

/-- No key is found iff every key is up (45_keys_timers.md R204). -/
theorem lowestKeyDown_eq_none (s : State) : lowestKeyDown s = none ↔ ∀ k, s.key k = false := by
  constructor
  · intro h k
    have := List.find?_eq_none.mp h k (by revert k; decide)
    simpa using this
  · intro h
    exact List.find?_eq_none.mpr fun k _ => by simp [h k]

/-- The key found is the least one down (45_keys_timers.md R204). -/
theorem lowestKeyDown_eq_some (s : State) (k : Reg) : lowestKeyDown s = some k ↔ s.key k = true ∧ ∀ j : Reg, j < k → s.key j = false := by
  unfold lowestKeyDown
  rw [List.find?_eq_some_iff_getElem]
  have hlen : keyIndices.length = 16 := rfl
  have hget : ∀ n (h : n < keyIndices.length), keyIndices[n] = Fin.ofNat 16 n := by decide
  constructor
  · rintro ⟨hk, n, hn, e, hj⟩
    refine ⟨hk, fun j hjk => ?_⟩
    rw [hget n hn] at e
    have hv : k.val = n := by rw [← e]; simp [Fin.ofNat]; omega
    have := hj j.val (by have := Fin.lt_def.mp hjk; omega)
    rw [hget j.val (by omega)] at this
    have ej : Fin.ofNat 16 j.val = j := Fin.ext (by simp [Fin.ofNat])
    rw [ej] at this
    simpa using this
  · rintro ⟨hk, hj⟩
    refine ⟨hk, k.val, by omega, ?_, fun j hjk => ?_⟩
    · rw [hget]; exact Fin.ext (by simp [Fin.ofNat])
    · have hj16 : j < 16 := by omega
      rw [hget]
      have ej : (Fin.ofNat 16 j).val = j := by simp [Fin.ofNat]; omega
      rw [hj (Fin.ofNat 16 j) (by rw [Fin.lt_def, ej]; exact hjk)]
      rfl

end Sys2Proof.Machine
end

