-- ==== Sys2Proof/Laws/Outcomes.lean ====
section
/-! SUPPORT. When the checks pass, what the shared operations that end a step can answer, and what a step can do. -/

namespace Sys2Proof.Machine

@[simp] theorem raise_ne_next (f : Word → Word → Fault) (i : Instr) (s t : State) : raise f i s ≠ .next t := by simp [raise]

@[simp] theorem raise_ne_refused (f : Word → Word → Fault) (i : Instr) (s : State) (r : Refusal) : raise f i s ≠ .refused r := by
  simp [raise]

/-- A checked instruction goes on exactly when its check found nothing, and then to its result (40_cycle.md R96). -/
theorem unlessFault_eq_next (c : Option (Word → Word → Fault)) (i : Instr) (s t u : State) :
    unlessFault c i s t = .next u ↔ c = none ∧ t = u := by
  cases c <;> simp [unlessFault]

/-- A checked instruction faults exactly when its check found a fault, and with that fault at its own address and opcode. -/
theorem unlessFault_eq_fault (c : Option (Word → Word → Fault)) (i : Instr) (s t : State) (f : Fault) :
    unlessFault c i s t = .fault f ↔ ∃ g, c = some g ∧ f = g (s.pc - 2#16) (encode i) := by
  cases c with
  | none => simp [unlessFault]
  | some g =>
    simp only [unlessFault, raise, State.opcodeAddress, Option.some.injEq, Host.Outcome.fault.injEq]
    exact ⟨fun h => ⟨g, rfl, h.symm⟩, fun ⟨_, rfl, h⟩ => h.symm⟩

@[simp] theorem unlessFault_ne_refused (c : Option (Word → Word → Fault)) (i : Instr) (s t : State) (r : Refusal) :
    unlessFault c i s t ≠ .refused r := by
  cases c <;> simp [unlessFault]

/-- The range check passes (20_memory.md R60). -/
theorem checkRange_eq_none (s : State) (k : Nat) : checkRange s k = none ↔ k = 0 ∨ s.i.toNat + k ≤ 0x1000 := by
  unfold checkRange; split <;> simp <;> omega

/-- The store check passes (20_memory.md R61). -/
theorem checkStore_eq_none (s : State) (k : Nat) :
    checkStore s k = none ↔ (k = 0 ∨ s.i.toNat + k ≤ 0x1000) ∧ 0x050 ≤ s.i.toNat := by
  unfold checkStore
  cases h : checkRange s k with
  | none => have := (checkRange_eq_none s k).mp h; simp; omega
  | some f =>
    have : ¬(k = 0 ∨ s.i.toNat + k ≤ 0x1000) := fun e => by rw [(checkRange_eq_none s k).mpr e] at h; simp at h
    simp [this]

/-- What storing checked bytes does, all of it (20_memory.md R51, R55). -/
theorem State.readByte_storeBytes (s : State) (p q : Nat) (bs : List Byte) :
    (s.storeBytes p bs).readByte q = if h : p ≤ q ∧ q < p + bs.length then bs[q - p] else s.readByte q :=
  Memory.read_writeBytes s.cfg.font bs s.mem p q

/-- When RET goes on, and where to (41_control_flow.md R111). -/
theorem execRet_eq_next (s t : State) : execRet s = .next t ↔ ∃ a, s.stack.getLast? = some a ∧ t = s.dropTop.jump a := by
  unfold execRet
  cases s.stack.getLast? <;> simp [raise, eq_comm]

/-- When CALL goes on, and where to (41_control_flow.md R113). -/
theorem execCall_eq_next (nnn : Word) (s t : State) :
    execCall nnn s = .next t ↔ s.stack.length < 16 ∧ t = (s.push s.pc).jump nnn := by
  unfold execCall
  by_cases h : 16 ≤ s.stack.length
  · simp [State.stackFull, h, raise]
  · simp [State.stackFull, h, eq_comm]; omega

/-- When SKP goes on, and what it does (45_keys_timers.md R201). -/
theorem execSkp_eq_next (x : Reg) (s t : State) :
    execSkp x s = .next t ↔ (s.reg x).toNat ≤ 15 ∧ t = s.skipIf (s.key (Fin.ofNat 16 (s.reg x).toNat)) := by
  unfold execSkp
  cases h : keyAt s (s.reg x) with
  | none => have := (keyAt_eq_none _ _).mp h; simp [raiseKeyIndex]; omega
  | some d => obtain ⟨h1, rfl⟩ := (keyAt_eq_some _ _ _).mp h; simp [h1, eq_comm]

/-- When SKNP goes on, and what it does (45_keys_timers.md R202). -/
theorem execSknp_eq_next (x : Reg) (s t : State) :
    execSknp x s = .next t ↔ (s.reg x).toNat ≤ 15 ∧ t = s.skipIf (!s.key (Fin.ofNat 16 (s.reg x).toNat)) := by
  unfold execSknp
  cases h : keyAt s (s.reg x) with
  | none => have := (keyAt_eq_none _ _).mp h; simp [raiseKeyIndex]; omega
  | some d => obtain ⟨h1, rfl⟩ := (keyAt_eq_some _ _ _).mp h; simp [h1, eq_comm]

/-- What LD_VX_K does (45_keys_timers.md R204, R205). -/
theorem execLdVxK_eq_next (x : Reg) (s t : State) :
    execLdVxK x s = .next t ↔
      ((∀ k, s.key k = false) ∧ t = s.rewind) ∨
      ∃ k, s.key k = true ∧ (∀ j : Reg, j < k → s.key j = false) ∧ t = s.setReg x (BitVec.ofNat 8 k.val) := by
  unfold execLdVxK
  cases h : lowestKeyDown s with
  | none =>
    have hn := (lowestKeyDown_eq_none s).mp h
    simp [hn, eq_comm]
  | some k =>
    have hk := (lowestKeyDown_eq_some s k).mp h
    simp only [Host.Outcome.next.injEq]
    constructor
    · rintro rfl; exact .inr ⟨k, hk.1, hk.2, rfl⟩
    · rintro (⟨h0, _⟩ | ⟨j, hj1, hj2, rfl⟩)
      · rw [h0 k] at hk; simp at hk
      · have : lowestKeyDown s = some j := (lowestKeyDown_eq_some s j).mpr ⟨hj1, hj2⟩
        rw [h] at this; rw [Option.some.inj this]

/-- When LD_B_VX goes on, and what it does (43_index_memory.md R164). -/
theorem execLdBVx_eq_next (x : Reg) (s t : State) :
    execLdBVx x s = .next t ↔
      s.i.toNat + 3 ≤ 0x1000 ∧ 0x050 ≤ s.i.toNat ∧ t = s.storeBytes s.i.toNat (decimalDigits (s.reg x)) := by
  rw [execLdBVx, unlessFault_eq_next, checkStore_eq_none]
  simp [indexAddress, eq_comm]; tauto

/-- When LD_MEM_VX goes on, and what it does (43_index_memory.md R165). -/
theorem execLdMemVx_eq_next (x : Reg) (s t : State) :
    execLdMemVx x s = .next t ↔
      s.i.toNat + x.val + 1 ≤ 0x1000 ∧ 0x050 ≤ s.i.toNat ∧ t = s.storeBytes s.i.toNat (registersUpTo s x) := by
  rw [execLdMemVx, unlessFault_eq_next, checkStore_eq_none]
  simp [indexAddress, eq_comm, ← Nat.add_assoc]; tauto

/-- When LD_VX_MEM goes on, and what it does (43_index_memory.md R166). -/
theorem execLdVxMem_eq_next (x : Reg) (s t : State) :
    execLdVxMem x s = .next t ↔ s.i.toNat + x.val + 1 ≤ 0x1000 ∧ t = loadRegisters s x := by
  rw [execLdVxMem, unlessFault_eq_next, checkRange_eq_none]
  simp [eq_comm, ← Nat.add_assoc]

/-- When DRW goes on, and what it does (44_display.md R182). -/
theorem execDrw_eq_next (x y : Reg) (n : Nat) (s t : State) :
    execDrw x y n s = .next t ↔ (n = 0 ∨ s.i.toNat + n ≤ 0x1000) ∧
      t = (s.setDisplay (drawnBy s x y n).1).setFlag (flagByte (drawnBy s x y n).2) := by
  rw [execDrw, unlessFault_eq_next, checkRange_eq_none]
  simp [eq_comm]

/-- Everything a step that goes on can do: run the decoded instruction, or the no-op of an unmatched opcode (40_cycle.md R95). -/
theorem step_eq_next (s t : State) :
    step s = .next t ↔ s.pc.toNat + 1 ≤ 0xFFF ∧
      ((∃ i, decode s.fetch = some i ∧ exec i s.closeLoad.advance = .next t) ∨
        (decode s.fetch = none ∧ t = s.closeLoad.advance)) := by
  unfold step
  by_cases h : s.pc.toNat + 1 ≤ 0xFFF
  · cases hd : decode s.fetch <;> simp [State.fetchable, h, execUnmatched, eq_comm]
  · simp [State.fetchable, h, fetchFault]

end Sys2Proof.Machine
end

