-- ==== Sys2Proof/Laws/PerInstr.lean ====
section
/-! SUPPORT. Per-instruction facts about the syntax: "The high nibble selects an instruction family" (30_encoding.md R73). -/

namespace Sys2Proof

/-- The family of each instruction, the first digit of its pattern (30_encoding.md R74). -/
def familyOf : Instr → Nat
  | .cls => 0x0
  | .ret => 0x0
  | .jp _ => 0x1
  | .call _ => 0x2
  | .seByte _ _ => 0x3
  | .sneByte _ _ => 0x4
  | .seReg _ _ => 0x5
  | .ldByte _ _ => 0x6
  | .addByte _ _ => 0x7
  | .ldReg _ _ => 0x8
  | .or _ _ => 0x8
  | .and _ _ => 0x8
  | .xor _ _ => 0x8
  | .addReg _ _ => 0x8
  | .sub _ _ => 0x8
  | .shr _ _ => 0x8
  | .subn _ _ => 0x8
  | .sneReg _ _ => 0x9
  | .ldI _ => 0xA
  | .drw _ _ _ => 0xD
  | .skp _ => 0xE
  | .sknp _ => 0xE
  | .ldVxDt _ => 0xF
  | .ldVxK _ => 0xF
  | .ldDtVx _ => 0xF
  | .ldStVx _ => 0xF
  | .addIVx _ => 0xF
  | .ldFVx _ => 0xF
  | .ldBVx _ => 0xF
  | .ldMemVx _ => 0xF
  | .ldVxMem _ => 0xF

/-- The opcode of a well-formed instruction lies in its family (30_encoding.md R73, R74). -/
def Laws.FamilyNibble.Statement (i : Instr) : Prop := i.wellFormed = true → fieldFamily (encode i) = familyOf i

theorem Laws.FamilyNibble.cls : Laws.FamilyNibble.Statement .cls :=
  fun _ => rfl

theorem Laws.FamilyNibble.ret : Laws.FamilyNibble.Statement .ret :=
  fun _ => rfl

theorem Laws.FamilyNibble.jp (nnn : Word) : Laws.FamilyNibble.Statement (.jp nnn) :=
  fun h => fieldFamily_packNNN 0x1 nnn (by decide) (of_decide_eq_true h)

theorem Laws.FamilyNibble.call (nnn : Word) : Laws.FamilyNibble.Statement (.call nnn) :=
  fun h => fieldFamily_packNNN 0x2 nnn (by decide) (of_decide_eq_true h)

theorem Laws.FamilyNibble.seByte (x : Reg) (nn : Byte) : Laws.FamilyNibble.Statement (.seByte x nn) :=
  fun _ => fieldFamily_packXB 0x3 x nn.toNat (by decide) nn.isLt

theorem Laws.FamilyNibble.sneByte (x : Reg) (nn : Byte) : Laws.FamilyNibble.Statement (.sneByte x nn) :=
  fun _ => fieldFamily_packXB 0x4 x nn.toNat (by decide) nn.isLt

theorem Laws.FamilyNibble.seReg (x : Reg) (y : Reg) : Laws.FamilyNibble.Statement (.seReg x y) :=
  fun _ => fieldFamily_packXYN 0x5 x y _ (by decide) (by decide)

theorem Laws.FamilyNibble.ldByte (x : Reg) (nn : Byte) : Laws.FamilyNibble.Statement (.ldByte x nn) :=
  fun _ => fieldFamily_packXB 0x6 x nn.toNat (by decide) nn.isLt

theorem Laws.FamilyNibble.addByte (x : Reg) (nn : Byte) : Laws.FamilyNibble.Statement (.addByte x nn) :=
  fun _ => fieldFamily_packXB 0x7 x nn.toNat (by decide) nn.isLt

theorem Laws.FamilyNibble.ldReg (x : Reg) (y : Reg) : Laws.FamilyNibble.Statement (.ldReg x y) :=
  fun _ => fieldFamily_packXYN 0x8 x y _ (by decide) (by decide)

theorem Laws.FamilyNibble.or (x : Reg) (y : Reg) : Laws.FamilyNibble.Statement (.or x y) :=
  fun _ => fieldFamily_packXYN 0x8 x y _ (by decide) (by decide)

theorem Laws.FamilyNibble.and (x : Reg) (y : Reg) : Laws.FamilyNibble.Statement (.and x y) :=
  fun _ => fieldFamily_packXYN 0x8 x y _ (by decide) (by decide)

theorem Laws.FamilyNibble.xor (x : Reg) (y : Reg) : Laws.FamilyNibble.Statement (.xor x y) :=
  fun _ => fieldFamily_packXYN 0x8 x y _ (by decide) (by decide)

theorem Laws.FamilyNibble.addReg (x : Reg) (y : Reg) : Laws.FamilyNibble.Statement (.addReg x y) :=
  fun _ => fieldFamily_packXYN 0x8 x y _ (by decide) (by decide)

theorem Laws.FamilyNibble.sub (x : Reg) (y : Reg) : Laws.FamilyNibble.Statement (.sub x y) :=
  fun _ => fieldFamily_packXYN 0x8 x y _ (by decide) (by decide)

theorem Laws.FamilyNibble.shr (x : Reg) (y : Reg) : Laws.FamilyNibble.Statement (.shr x y) :=
  fun _ => fieldFamily_packXYN 0x8 x y _ (by decide) (by decide)

theorem Laws.FamilyNibble.subn (x : Reg) (y : Reg) : Laws.FamilyNibble.Statement (.subn x y) :=
  fun _ => fieldFamily_packXYN 0x8 x y _ (by decide) (by decide)

theorem Laws.FamilyNibble.sneReg (x : Reg) (y : Reg) : Laws.FamilyNibble.Statement (.sneReg x y) :=
  fun _ => fieldFamily_packXYN 0x9 x y _ (by decide) (by decide)

theorem Laws.FamilyNibble.ldI (nnn : Word) : Laws.FamilyNibble.Statement (.ldI nnn) :=
  fun h => fieldFamily_packNNN 0xA nnn (by decide) (of_decide_eq_true h)

theorem Laws.FamilyNibble.drw (x : Reg) (y : Reg) (n : Nat) : Laws.FamilyNibble.Statement (.drw x y n) :=
  fun h => fieldFamily_packXYN 0xD x y n (by decide) (Nat.lt_succ_of_le (of_decide_eq_true h))

theorem Laws.FamilyNibble.skp (x : Reg) : Laws.FamilyNibble.Statement (.skp x) :=
  fun _ => fieldFamily_packXB 0xE x _ (by decide) (by decide)

theorem Laws.FamilyNibble.sknp (x : Reg) : Laws.FamilyNibble.Statement (.sknp x) :=
  fun _ => fieldFamily_packXB 0xE x _ (by decide) (by decide)

theorem Laws.FamilyNibble.ldVxDt (x : Reg) : Laws.FamilyNibble.Statement (.ldVxDt x) :=
  fun _ => fieldFamily_packXB 0xF x _ (by decide) (by decide)

theorem Laws.FamilyNibble.ldVxK (x : Reg) : Laws.FamilyNibble.Statement (.ldVxK x) :=
  fun _ => fieldFamily_packXB 0xF x _ (by decide) (by decide)

theorem Laws.FamilyNibble.ldDtVx (x : Reg) : Laws.FamilyNibble.Statement (.ldDtVx x) :=
  fun _ => fieldFamily_packXB 0xF x _ (by decide) (by decide)

theorem Laws.FamilyNibble.ldStVx (x : Reg) : Laws.FamilyNibble.Statement (.ldStVx x) :=
  fun _ => fieldFamily_packXB 0xF x _ (by decide) (by decide)

theorem Laws.FamilyNibble.addIVx (x : Reg) : Laws.FamilyNibble.Statement (.addIVx x) :=
  fun _ => fieldFamily_packXB 0xF x _ (by decide) (by decide)

theorem Laws.FamilyNibble.ldFVx (x : Reg) : Laws.FamilyNibble.Statement (.ldFVx x) :=
  fun _ => fieldFamily_packXB 0xF x _ (by decide) (by decide)

theorem Laws.FamilyNibble.ldBVx (x : Reg) : Laws.FamilyNibble.Statement (.ldBVx x) :=
  fun _ => fieldFamily_packXB 0xF x _ (by decide) (by decide)

theorem Laws.FamilyNibble.ldMemVx (x : Reg) : Laws.FamilyNibble.Statement (.ldMemVx x) :=
  fun _ => fieldFamily_packXB 0xF x _ (by decide) (by decide)

theorem Laws.FamilyNibble.ldVxMem (x : Reg) : Laws.FamilyNibble.Statement (.ldVxMem x) :=
  fun _ => fieldFamily_packXB 0xF x _ (by decide) (by decide)

end Sys2Proof
end

