-- ==== Sys2Proof/Laws/Run.lean ====
section
/-! SUPPORT. One step at the head of a run of the core. -/

namespace Sys2Proof.Machine

/-- A run of k + 1 steps of any machine whose first step goes on is the run of k steps from there. -/
theorem run_succ_next (M : Host.Core) (k : Nat) (s t : M.State) (h : M.step s = .next t) : M.run (k + 1) s = M.run k t := by
  simp only [Host.Core.run, h]

/-- A run of any machine whose first step faults ends in that fault. -/
theorem run_succ_fault (M : Host.Core) (k : Nat) (s : M.State) (f : M.Fault) (h : M.step s = .fault f) : M.run (k + 1) s = .fault f := by
  simp only [Host.Core.run, h]

/-- `run_succ_next` for the core, in the terms of `step`. -/
theorem core_run_succ_next (k : Nat) (s t : State) (h : step s = .next t) : core.run (k + 1) s = core.run k t :=
  run_succ_next core k s t h

/-- `run_succ_fault` for the core, in the terms of `step`. -/
theorem core_run_succ_fault (k : Nat) (s : State) (f : Fault) (h : step s = .fault f) : core.run (k + 1) s = .fault f :=
  run_succ_fault core k s f h

end Sys2Proof.Machine
end

