-- ==== Sys2Proof/Laws/Transactions.lean ====
section
/-! SUPPORT. What each host transaction can answer, and how finite and infinite sequences of them fit together. -/

namespace Sys2Proof.Machine

/-- What a step can answer the host when it is performed (40_cycle.md R95, R96). -/
theorem performStep_eq_performed (s t : State) (r : Reply) :
    performStep s = .performed t r ↔
      (step s = .next t ∧ r = .outcome (completion s)) ∨
      ∃ f, step s = .fault f ∧ t = s.closeLoad ∧ r = .outcome (.Fault f) := by
  unfold performStep
  cases step s <;> simp [eq_comm]

/-- What load can answer when it is performed (70_reset_and_hazards.md R263, R264). -/
theorem performLoad_eq_performed (bytes : List Byte) (s t : State) (r : Reply) :
    performLoad bytes s = .performed t r ↔ s.loadOpen = true ∧
      ((bytes.length ≤ 3584 ∧ t = s.loadProgram bytes ∧ r = .loaded) ∨
        (3584 < bytes.length ∧ t = s ∧ r = .capacityExceeded)) := by
  unfold performLoad programFits
  cases s.loadOpen with
  | false => simp
  | true =>
    by_cases h : bytes.length ≤ 3584
    · simp [h, eq_comm, Nat.not_lt.mpr h]
    · simp [h, eq_comm, Nat.lt_of_not_le h]

/-- What setKey can answer when it is performed (60_exceptions.md R245). -/
theorem performSetKey_eq_performed (index : Nat) (pressed : Bool) (s t : State) (r : Reply) :
    performSetKey index pressed s = .performed t r ↔
      index ≤ 15 ∧ t = s.setKey (Fin.ofNat 16 index) pressed ∧ r = .done := by
  unfold performSetKey
  by_cases h : index ≤ 15 <;> simp [h, eq_comm]

/-- One call after a finite sequence. -/
theorem performAll_append (ts us : List Transaction) (s : State) :
    performAll (ts ++ us) s = (performAll ts s).bind (performAll us) := by
  induction ts generalizing s with
  | nil => rfl
  | cons a ts ih => simp only [List.cons_append, performAll]; cases perform a s <;> simp [ih]

/-- The state after n + 1 calls of a schedule (60_exceptions.md R243). -/
theorem stateAfter_succ_eq_some (σ : Schedule) (s u : State) (n : Nat) :
    stateAfter σ s (n + 1) = some u ↔ ∃ t r, stateAfter σ s n = some t ∧ perform (σ n) t = .performed u r := by
  simp only [stateAfter]
  cases stateAfter σ s n with
  | none => simp
  | some t => cases h : perform (σ n) t <;> simp [h]

/-- A run along a schedule is, up to any call, the run of the finite sequence of the calls so far. -/
theorem stateAfter_eq_performAll (σ : Schedule) (s : State) (n : Nat) :
    stateAfter σ s n = performAll ((List.range n).map σ) s := by
  induction n with
  | zero => rfl
  | succ n ih =>
    rw [List.range_succ, List.map_append, performAll_append, ← ih]
    simp only [stateAfter]
    cases stateAfter σ s n with
    | none => rfl
    | some t => simp only [Option.bind_some, List.map_cons, List.map_nil, performAll]

end Sys2Proof.Machine
end

