-- ==== Sys2Proof/Tests/Slice0.lean ====
section
/-! SUPPORT. Tests: the well-formedness smoke test, the decoding of words written out from the patterns of 30_encoding.md R74, one-step vectors
of 95_test_vectors.md (named in each docstring; every expected value is the spec's), and witnesses for the hypotheses of the statements. -/

namespace Sys2Proof.Tests

open Sys2Proof Sys2Proof.Machine

/-! ## Helpers -/

/-- The initial state of the vectors (95_test_vectors.md, Conventions). -/
def base : State := { State.reset with loadOpen := false }

/-- The opcode at PC. -/
def atPc (s : State) (op : Word) : State := placeOpcode s op

/-- The step goes on to a state with the property. -/
def goesTo (o : Host.Outcome State Fault Refusal) (p : State → Bool) : Bool :=
  match o with
  | .next t => p t
  | .fault _ => false
  | .refused _ => false

/-- The step ends in this fault. -/
def faultsWith (o : Host.Outcome State Fault Refusal) (f : Fault) : Bool :=
  match o with
  | .next _ => false
  | .fault g => g == f
  | .refused _ => false

/-- The call is performed with this reply, and leaves a state with the property. -/
def replies (c : CallResult) (r : Reply) (p : State → Bool) : Bool :=
  match c with
  | .performed t r' => (r' == r) && p t
  | .refused _ => false

/-- The call is refused for this reason. -/
def refusedAs (c : CallResult) (r : Refusal) : Bool :=
  match c with
  | .performed _ _ => false
  | .refused r' => r' == r

/-- A one-step vector that goes on: the opcode at PC, run from `s`. -/
def runs (s : State) (op : Word) (p : State → Bool) : Bool := goesTo (step (atPc s op)) p

/-- A one-step vector that faults. -/
def stops (s : State) (op : Word) (f : Fault) : Bool := faultsWith (step (atPc s op)) f

/-- The pixels set in row r. -/
def rowPixels (s : State) (r : Fin 32) : List Nat := ((List.finRange 64).filter fun c => s.pixel r c).map fun c => c.val

/-- A display with these pixels flipped on. -/
def withPixels (s : State) (l : List (Fin 32 × Fin 64)) : State :=
  { s with pix := l.foldl (fun d p => d.flip p.1 p.2) s.pix }

/-! ## Well-formedness -/

theorem test_wf_refuses_wide_jp : (Instr.jp 0x1000#16).wellFormed = false := by decide
theorem test_wf_refuses_wide_call : (Instr.call 0xFFFF#16).wellFormed = false := by decide
theorem test_wf_refuses_wide_ldI : (Instr.ldI 0x1000#16).wellFormed = false := by decide
theorem test_wf_refuses_sixteen_rows : (Instr.drw 1 2 16).wellFormed = false := by decide
theorem test_wf_accepts_the_widest :
    ((Instr.jp 0xFFF#16).wellFormed && (Instr.call 0xFFF#16).wellFormed && (Instr.ldI 0xFFF#16).wellFormed &&
      (Instr.drw 15 15 15).wellFormed) = true := by decide

/-! ## Decoding: words written out from the patterns of R74 -/

theorem test_decode_cls : decode 0x00E0#16 = some .cls := by decide
theorem test_decode_ret : decode 0x00EE#16 = some .ret := by decide
theorem test_decode_jp : decode 0x1FFF#16 = some (.jp 0xFFF#16) := by decide
theorem test_decode_call : decode 0x2300#16 = some (.call 0x300#16) := by decide
theorem test_decode_seByte : decode 0x3342#16 = some (.seByte 3 0x42#8) := by decide
theorem test_decode_sneByte : decode 0x4F81#16 = some (.sneByte 15 0x81#8) := by decide
theorem test_decode_seReg : decode 0x5120#16 = some (.seReg 1 2) := by decide
theorem test_decode_ldByte : decode 0x6A3C#16 = some (.ldByte 10 0x3C#8) := by decide
theorem test_decode_addByte : decode 0x7090#16 = some (.addByte 0 0x90#8) := by decide
theorem test_decode_ldReg : decode 0x8120#16 = some (.ldReg 1 2) := by decide
theorem test_decode_or : decode 0x8121#16 = some (.or 1 2) := by decide
theorem test_decode_and : decode 0x8122#16 = some (.and 1 2) := by decide
theorem test_decode_xor : decode 0x8123#16 = some (.xor 1 2) := by decide
theorem test_decode_addReg : decode 0x81F4#16 = some (.addReg 1 15) := by decide
theorem test_decode_sub : decode 0x8F15#16 = some (.sub 15 1) := by decide
theorem test_decode_shr : decode 0x8456#16 = some (.shr 4 5) := by decide
theorem test_decode_subn : decode 0x8127#16 = some (.subn 1 2) := by decide
theorem test_decode_sneReg : decode 0x9120#16 = some (.sneReg 1 2) := by decide
theorem test_decode_ldI : decode 0xA2F0#16 = some (.ldI 0x2F0#16) := by decide
theorem test_decode_drw : decode 0xD125#16 = some (.drw 1 2 5) := by decide
theorem test_decode_skp : decode 0xE19E#16 = some (.skp 1) := by decide
theorem test_decode_sknp : decode 0xEFA1#16 = some (.sknp 15) := by decide
theorem test_decode_ldVxDt : decode 0xF307#16 = some (.ldVxDt 3) := by decide
theorem test_decode_ldVxK : decode 0xF50A#16 = some (.ldVxK 5) := by decide
theorem test_decode_ldDtVx : decode 0xF015#16 = some (.ldDtVx 0) := by decide
theorem test_decode_ldStVx : decode 0xF118#16 = some (.ldStVx 1) := by decide
theorem test_decode_addIVx : decode 0xF21E#16 = some (.addIVx 2) := by decide
theorem test_decode_ldFVx : decode 0xFA29#16 = some (.ldFVx 10) := by decide
theorem test_decode_ldBVx : decode 0xF533#16 = some (.ldBVx 5) := by decide
theorem test_decode_ldMemVx : decode 0xF255#16 = some (.ldMemVx 2) := by decide
theorem test_decode_ldVxMem : decode 0xF465#16 = some (.ldVxMem 4) := by decide

/-- CY1–CY11 and AL28: unmatched opcodes of every family that has some (R76). -/
theorem test_decode_unmatched :
    ([0x0000#16, 0x0123#16, 0x00E1#16, 0x5121#16, 0x9121#16, 0x812E#16, 0x8FFE#16, 0xB200#16, 0xC0FF#16, 0xE000#16, 0xFFFF#16,
      0xF00B#16].all fun op => (decode op).isNone) = true := by decide

theorem test_decodeBytes_big_endian : decodeBytes [0x12#8, 0x34#8, 0x56#8] = .instr (.jp 0x234#16) [0x56#8] := by decide
theorem test_decodeBytes_rejects_by_name : decodeBytes [0x81#8, 0x2E#8] = .reject (.unmatched 0x812E#16) := by decide
theorem test_decodeBytes_truncated : decodeBytes [0x12#8] = .reject .truncated := by decide
theorem test_decodeTableWord : decodeTableWord 16 0xD125 = some (.drw 1 2 5) := by decide

/-! ## One step: control flow -/

/-- CF1. -/
theorem test_ret : runs { base with pc := 0x308#16, stack := [0x204#16] } 0x00EE#16 (fun t => t.pc == 0x204#16 && t.stack == []) = true := by decide
/-- CF2. -/
theorem test_ret_underflow : stops base 0x00EE#16 (.stackUnderflow 0x200#16 0x00EE#16) = true := by decide
/-- CF5. -/
theorem test_jp : runs base 0x1FFF#16 (fun t => t.pc == 0xFFF#16) = true := by decide
/-- CF9: a call at 0xFFE pushes 0x1000. -/
theorem test_call : runs { base with pc := 0xFFE#16 } 0x2200#16 (fun t => t.pc == 0x200#16 && t.stack == [0x1000#16]) = true := by decide
/-- CF8. -/
theorem test_call_overflow :
    stops { base with pc := 0x300#16, stack := List.replicate 16 0x202#16 } 0x2400#16 (.stackOverflow 0x300#16 0x2400#16) = true := by decide
/-- CF10. -/
theorem test_seByte_skips : runs (base.setReg 3 0x42#8) 0x3342#16 (fun t => t.pc == 0x204#16) = true := by decide
/-- CF11. -/
theorem test_seByte_falls : runs (base.setReg 3 0x41#8) 0x3342#16 (fun t => t.pc == 0x202#16) = true := by decide
/-- CF13. -/
theorem test_sneByte_skips : runs (base.setReg 3 0x41#8) 0x4342#16 (fun t => t.pc == 0x204#16) = true := by decide
/-- CF14. -/
theorem test_sneByte_falls : runs (base.setReg 3 0x42#8) 0x4342#16 (fun t => t.pc == 0x202#16) = true := by decide
/-- CF15. -/
theorem test_seReg_skips : runs ((base.setReg 1 7#8).setReg 2 7#8) 0x5120#16 (fun t => t.pc == 0x204#16) = true := by decide
/-- CF16. -/
theorem test_seReg_falls : runs ((base.setReg 1 7#8).setReg 2 8#8) 0x5120#16 (fun t => t.pc == 0x202#16) = true := by decide
/-- CF18. -/
theorem test_sneReg_skips : runs ((base.setReg 1 7#8).setReg 2 8#8) 0x9120#16 (fun t => t.pc == 0x204#16) = true := by decide
/-- CF19. -/
theorem test_sneReg_falls : runs (base.setReg 3 9#8) 0x9330#16 (fun t => t.pc == 0x202#16) = true := by decide

/-! ## One step: registers and ALU -/

/-- AL1. -/
theorem test_ldByte : runs base 0x6A3C#16 (fun t => t.reg 10 == 0x3C#8 && t.pc == 0x202#16) = true := by decide
/-- AL4: 7Fnn wraps VF and sets no flag. -/
theorem test_addByte : runs (base.setReg 15 0xFF#8) 0x7F01#16 (fun t => t.reg 15 == 0#8) = true := by decide
/-- AL5. -/
theorem test_ldReg : runs (base.setReg 2 0x55#8) 0x8120#16 (fun t => t.reg 1 == 0x55#8 && t.reg 2 == 0x55#8) = true := by decide
/-- AL6: VF is not changed. -/
theorem test_or : runs (((base.setReg 1 0xF0#8).setReg 2 0x0F#8).setReg 15 0x77#8) 0x8121#16
    (fun t => t.reg 1 == 0xFF#8 && t.reg 15 == 0x77#8) = true := by decide
/-- AL7. -/
theorem test_and : runs ((base.setReg 1 0xF0#8).setReg 2 0x3C#8) 0x8122#16 (fun t => t.reg 1 == 0x30#8) = true := by decide
/-- AL8. -/
theorem test_xor : runs ((base.setReg 1 0xF0#8).setReg 2 0x3C#8) 0x8123#16 (fun t => t.reg 1 == 0xCC#8) = true := by decide
/-- AL13: x = F, the flag is written last. -/
theorem test_addReg_vf_is_x : runs ((base.setReg 15 0xFF#8).setReg 1 1#8) 0x8F14#16 (fun t => t.reg 15 == 1#8) = true := by decide
/-- AL14: y = F, the old VF is the addend. -/
theorem test_addReg_vf_is_y : runs ((base.setReg 1 0x10#8).setReg 15 1#8) 0x81F4#16
    (fun t => t.reg 1 == 0x11#8 && t.reg 15 == 0#8) = true := by decide
/-- AL15. -/
theorem test_sub_borrows : runs ((base.setReg 1 1#8).setReg 2 2#8) 0x8125#16 (fun t => t.reg 1 == 0xFF#8 && t.reg 15 == 0#8) = true := by decide
/-- AL16: equal operands do not borrow. -/
theorem test_sub_equal : runs ((base.setReg 1 5#8).setReg 2 5#8) 0x8125#16 (fun t => t.reg 1 == 0#8 && t.reg 15 == 1#8) = true := by decide
/-- AL20: Vy is ignored. -/
theorem test_shr : runs (base.setReg 4 5#8) 0x8456#16 (fun t => t.reg 4 == 2#8 && t.reg 15 == 1#8) = true := by decide
/-- AL22: x = F. -/
theorem test_shr_vf : runs (base.setReg 15 3#8) 0x8F06#16 (fun t => t.reg 15 == 1#8) = true := by decide
/-- AL24. -/
theorem test_subn_borrows : runs ((base.setReg 1 5#8).setReg 2 3#8) 0x8127#16 (fun t => t.reg 1 == 0xFE#8 && t.reg 15 == 0#8) = true := by decide
/-- AL25. -/
theorem test_subn : runs ((base.setReg 1 3#8).setReg 2 5#8) 0x8127#16 (fun t => t.reg 1 == 2#8 && t.reg 15 == 1#8) = true := by decide

/-! ## One step: index register and memory -/

/-- IX1. -/
theorem test_ldI : runs base 0xA2F0#16 (fun t => t.i == 0x2F0#16) = true := by decide
/-- IX4. -/
theorem test_addIVx_wraps : runs ({ base with i := 0xFFF#16 }.setReg 1 1#8) 0xF11E#16 (fun t => t.i == 0#16 && t.reg 15 == 1#8) = true := by decide
/-- IX6: x = F, the old VF is the addend. -/
theorem test_addIVx_vf : runs ({ base with i := 0xFF0#16 }.setReg 15 0x20#8) 0xFF1E#16 (fun t => t.i == 0x010#16 && t.reg 15 == 1#8) = true := by decide
/-- IX9: Vx is not masked. -/
theorem test_ldFVx : runs (base.setReg 1 0xFF#8) 0xF129#16 (fun t => t.i == 0x4FB#16) = true := by decide
/-- IX10. -/
theorem test_ldBVx : runs ({ base with i := 0x300#16 }.setReg 5 0x9C#8) 0xF533#16
    (fun t => [t.readByte 0x300, t.readByte 0x301, t.readByte 0x302] == [1#8, 5#8, 6#8]) = true := by decide
/-- IX15. -/
theorem test_ldBVx_font : stops ({ base with i := 0x04F#16 }.setReg 5 0x7B#8) 0xF533#16 (.fontWrite 0x200#16 0xF533#16 0x04F#16) = true := by decide
/-- IX17: x + 1 bytes are written, and I stays. -/
theorem test_ldMemVx : runs ((({ base with i := 0x400#16 }.setReg 0 1#8).setReg 1 2#8).setReg 2 3#8) 0xF255#16
    (fun t => [t.readByte 0x400, t.readByte 0x401, t.readByte 0x402, t.readByte 0x403] == [1#8, 2#8, 3#8, 0#8] && t.i == 0x400#16) = true := by decide
/-- IX20. -/
theorem test_ldMemVx_range : stops { base with i := 0xFF1#16 } 0xFF55#16
    (.addressOutOfRange 0x200#16 (some 0xFF55#16) 0x1000#16) = true := by decide
/-- IX23: the glyph "0" of the font. -/
theorem test_ldVxMem_font : runs base 0xF465#16
    (fun t => [t.reg 0, t.reg 1, t.reg 2, t.reg 3, t.reg 4, t.reg 5] == [0xF0#8, 0x90#8, 0x90#8, 0x90#8, 0xF0#8, 0#8]) = true := by decide
/-- IX24. -/
theorem test_ldVxMem_range : stops { base with i := 0xFFF#16 } 0xF165#16
    (.addressOutOfRange 0x200#16 (some 0xF165#16) 0x1000#16) = true := by decide

/-! ## One step: display -/

/-- DS1. -/
theorem test_cls : runs { withPixels base [(0, 0), (31, 63)] with dirty := false } 0x00E0#16
    (fun t => t.pix == blankDisplay && t.dirty) = true := by decide
/-- DS10: one pixel goes on, one off. -/
theorem test_drw_collides : runs (withPixels ({ base with i := 0x300#16 }.storeBytes 0x300 [0xC0#8]) [(0, 1), (0, 5)]) 0xD121#16
    (fun t => rowPixels t 0 == [0, 5] && t.reg 15 == 1#8) = true := by decide
/-- DS6: a row at column 60 wraps. -/
theorem test_drw_wraps_columns : runs (({ base with i := 0x300#16 }.storeBytes 0x300 [0xFF#8]).setReg 1 60#8) 0xD121#16
    (fun t => rowPixels t 0 == [0, 1, 2, 3, 60, 61, 62, 63] && t.reg 15 == 0#8) = true := by decide
/-- DS8: DRAW_ROW_MODE = wrap. -/
theorem test_rows_wrap : runs (({ base with i := 0x300#16 }.storeBytes 0x300 [0x80#8, 0x80#8]).setReg 2 31#8) 0xD122#16
    (fun t => rowPixels t 31 == [0] && rowPixels t 0 == [0]) = true := by decide
/-- DS9: DRAW_ROW_MODE = clip. -/
theorem test_rows_clip : runs (({ base with i := 0x300#16, cfg := { base.cfg with drawRowMode := .clip } }.storeBytes 0x300 [0x80#8, 0x80#8]).setReg 2 31#8)
    0xD122#16 (fun t => rowPixels t 31 == [0] && rowPixels t 0 == []) = true := by decide

/-! ## One step: keys and timers -/

/-- KT1. -/
theorem test_skp : runs ((base.setReg 1 5#8).setKey 5 true) 0xE19E#16 (fun t => t.pc == 0x204#16) = true := by decide
/-- KT5. -/
theorem test_skp_no_key : stops (base.setReg 0 0x10#8) 0xE09E#16 (.keyIndexOutOfRange 0x200#16 0xE09E#16 0x010#16) = true := by decide
/-- KT4. -/
theorem test_sknp_falls : runs ((base.setReg 1 5#8).setKey 5 true) 0xE1A1#16 (fun t => t.pc == 0x202#16) = true := by decide
/-- KT6. -/
theorem test_sknp_skips : runs (base.setReg 15 0x0F#8) 0xEFA1#16 (fun t => t.pc == 0x204#16) = true := by decide
/-- KT7. -/
theorem test_ldVxDt : runs { base with dt := 60#8 } 0xF307#16 (fun t => t.reg 3 == 0x3C#8) = true := by decide
/-- KT8. -/
theorem test_ldVxK_waits : replies (performStep (atPc { base with pc := 0x210#16 } 0xF50A#16)) (.outcome .WaitingForKey)
    (fun t => t.pc == 0x210#16) = true := by decide
/-- KT10: the least key down. -/
theorem test_ldVxK_least : runs (((base.setKey 9 true).setKey 3 true).setKey 15 true) 0xF00A#16
    (fun t => t.reg 0 == 3#8 && t.pc == 0x202#16) = true := by decide
/-- KT12. -/
theorem test_ldDtVx : runs (base.setReg 0 0xFF#8) 0xF015#16 (fun t => t.dt == 255#8) = true := by decide
/-- KT14. -/
theorem test_ldStVx : runs (base.setReg 0 0x10#8) 0xF018#16 (fun t => t.st == 16#8) = true := by decide

/-! ## The step cycle -/

/-- CY13. -/
theorem test_unmatched : replies (performStep { base with pc := 0xFFE#16 }) (.outcome (.Unimplemented 0x0000#16 0xFFE#16))
    (fun t => t.pc == 0x1000#16) = true := by decide
/-- CY12: a table row that completes is Continue. -/
theorem test_continue : replies (performStep (atPc { base with pc := 0xFFE#16 } 0x1234#16)) (.outcome .Continue)
    (fun t => t.pc == 0x234#16) = true := by decide
/-- CY15. -/
theorem test_fetch_at_fff : faultsWith (step { base with pc := 0xFFF#16 }) (.addressOutOfRange 0xFFF#16 none 0xFFF#16) = true := by decide
/-- CY18. -/
theorem test_step_closes_load : replies (performStep State.reset) (.outcome (.Unimplemented 0x0000#16 0x200#16))
    (fun t => t.pc == 0x202#16 && !t.loadOpen) = true := by decide

/-! ## Host transactions -/

/-- H3. -/
theorem test_tick : replies (perform .tick { base with dt := 1#8, st := 255#8 }) .done (fun t => t.dt == 0#8 && t.st == 254#8) = true := by decide
/-- H4. -/
theorem test_setKey : replies (perform (.setKey 3 true) base) .done (fun t => t.key 3 && !t.key 4) = true := by decide
/-- H6. -/
theorem test_setKey_refused : refusedAs (perform (.setKey 16 true) base) (.setKeyIndex 16) = true := by decide
/-- H7. -/
theorem test_isDirty : replies (perform .isDirty base) (.dirty true) (fun t => t.dirty) = true := by decide
/-- H8. -/
theorem test_consumeDirty : replies (perform .consumeDirty (withPixels base [(0, 0)])) (.buffer (withPixels base [(0, 0)]).pix)
    (fun t => !t.dirty && rowPixels t 0 == [0]) = true := by decide
/-- H11. -/
theorem test_load : replies (perform (.load [0x12#8, 0x00#8]) State.reset) .loaded
    (fun t => t.readByte 0x200 == 0x12#8 && t.readByte 0x201 == 0#8 && !t.loadOpen) = true := by decide
/-- H12. -/
theorem test_load_again : refusedAs (perform (.load [0#8]) base) .loadClosed = true := by decide

/-! ## Witnesses: concrete states and operands that meet the hypotheses of the statements, together

Each is named after its statement; a statement with several clauses has one for each, at a boundary of its range. -/

/-- A state at the edges of the invariant: I = 0xFFF, PC = 0xFFE, sixteen return addresses, a listed byte at each end of what is written. -/
def edge : State :=
  { base with mem := [(0x050, 0x01#8), (0xFFF, 0x02#8)], i := 0xFFF#16, pc := 0xFFE#16, stack := List.replicate 16 0x1000#16 }

/-- A sequence of every transaction. -/
def everyTransaction : List Transaction := [.load [0x00#8, 0xE0#8], .step, .tick, .setKey 15 true, .isDirty, .consumeDirty]

theorem reset_inv : State.reset.Inv := by decide
theorem witness_StepKeepsTheInvariant : edge.Inv ∧ ∃ t, step edge = .next t := ⟨by decide, _, rfl⟩
theorem witness_TransactionSequencesKeepTheInvariant : State.reset.Inv ∧ ∃ t, performAll everyTransaction State.reset = some t :=
  ⟨by decide, _, rfl⟩
theorem witness_FontIsNeverChanged : State.reset.Inv ∧ (∃ t, performAll everyTransaction State.reset = some t) ∧ 0x04F ≤ 0x04F :=
  ⟨by decide, ⟨_, rfl⟩, by decide⟩
theorem witness_FontIsNeverChanged_store :
    (atPc { base with i := 0x04F#16 } 0xF533#16).i.toNat ≤ 0x04F ∧ (atPc { base with i := 0x04F#16 } 0xF533#16).pc.toNat + 1 ≤ 0xFFF ∧
      decode (atPc { base with i := 0x04F#16 } 0xF533#16).fetch = some (.ldBVx 5) := by decide
theorem witness_FontIsNeverChanged_store_registers : decode (atPc { base with i := 0x04F#16 } 0xF055#16).fetch = some (.ldMemVx 0) := by decide
theorem witness_CanonicalMemoriesThatReadAlikeAreEqual :
    Memory.wf classicFont edge.mem ∧ Memory.wf classicFont (Memory.write classicFont [(0x050, 0x01#8)] 0xFFF 0x02#8) ∧
      ∀ a, edge.mem.read classicFont a = (Memory.write classicFont [(0x050, 0x01#8)] 0xFFF 0x02#8).read classicFont a :=
  ⟨by decide, by decide, fun _ => rfl⟩
theorem witness_DecodeInvertsEncode : (Instr.drw 15 15 15).wellFormed = true := by decide
theorem witness_EncodeInvertsDecode : decode 0xDFFF#16 = some (.drw 15 15 15) := by decide
theorem witness_StepRunsTheDecodedInstruction :
    (atPc { base with pc := 0xFFE#16 } 0x1234#16).pc.toNat + 1 ≤ 0xFFF ∧
      decode (atPc { base with pc := 0xFFE#16 } 0x1234#16).fetch = some (.jp 0x234#16) := by decide
theorem witness_StepRunsTheDecodedInstruction_continue :
    (atPc base 0x1234#16).pc.toNat + 1 ≤ 0xFFF ∧ decode (atPc base 0x1234#16).fetch = some (.jp 0x234#16) ∧
      (∃ t, exec (.jp 0x234#16) { atPc base 0x1234#16 with pc := 0x202#16, loadOpen := false } = .next t) ∧
      ∀ x, Instr.jp 0x234#16 = .ldVxK x → ∃ k, (atPc base 0x1234#16).key k = true := ⟨by decide, by decide, ⟨_, rfl⟩, by simp⟩
theorem witness_StepRunsTheDecodedInstruction_key_down :
    decode (atPc (base.setKey 3 true) 0xF50A#16).fetch = some (.ldVxK 5) ∧ ∃ k, (atPc (base.setKey 3 true) 0xF50A#16).key k = true := by decide
theorem witness_StepRunsAnEncodedInstruction :
    (Instr.jp 0x234#16).wellFormed = true ∧ (atPc { base with pc := 0xFFE#16 } 0x1234#16).pc.toNat + 1 ≤ 0xFFF ∧
      (atPc { base with pc := 0xFFE#16 } 0x1234#16).readByte 0xFFE = highByte (encode (.jp 0x234#16)) ∧
      (atPc { base with pc := 0xFFE#16 } 0x1234#16).readByte 0xFFF = lowByte (encode (.jp 0x234#16)) := by decide
theorem witness_PlacedWordRunsNext : decodeTableWord 16 0x8456 = some (.shr 4 5) := by decide
theorem witness_PlacedWord_at_pc : placeAddress { base with pc := 0x050#16 } = 0x050#16 ∧ placeAddress { base with pc := 0xFFE#16 } = 0xFFE#16 := by decide
theorem witness_PlacedWord_elsewhere :
    placeAddress { base with pc := 0x04F#16 } = 0x200#16 ∧ placeAddress { base with pc := 0xFFF#16 } = 0x200#16 := by decide
theorem witness_PlacedWord_frame : 0x202 ≠ (placeAddress base).toNat ∧ 0x202 ≠ (placeAddress base).toNat + 1 := by decide
theorem witness_UnmatchedOpcodeIsANoOp : edge.pc.toNat + 1 ≤ 0xFFF ∧ decode edge.fetch = none := by decide
theorem witness_FetchFaultsExactlyPastMemory : 0xFFF < ({ base with pc := 0xFFF#16 } : State).pc.toNat + 1 := by decide
theorem witness_FaultingAndWaitingSteps_fault :
    ∃ t o, performStep (atPc State.reset 0x00EE#16) = .performed t (.outcome o) ∧ ∃ f, o = .Fault f := ⟨_, _, rfl, _, rfl⟩
theorem witness_FaultingAndWaitingSteps_wait :
    ∃ t, performStep (atPc State.reset 0xF50A#16) = .performed t (.outcome .WaitingForKey) := ⟨_, rfl⟩
theorem witness_FaultsRecordAddressAndOpcode :
    (atPc base 0x00EE#16).pc.toNat + 1 ≤ 0xFFF ∧ ∃ f, step (atPc base 0x00EE#16) = .fault f := ⟨by decide, _, rfl⟩
theorem witness_InstructionsFault_range : faultsWith (exec (.drw 0 0 5) { base with i := 0xFFC#16, pc := 0x202#16 })
    (.addressOutOfRange 0x200#16 (some 0xD005#16) 0x1000#16) = true := by decide
theorem witness_InstructionsFault_no_range : goesTo (exec (.drw 0 0 5) { base with i := 0xFFB#16, pc := 0x202#16 }) (fun _ => true) = true := by decide
theorem witness_InstructionsFault_call : faultsWith (exec (.call 0x400#16) { edge with pc := 0x302#16 }) (.stackOverflow 0x300#16 0x2400#16) = true := by decide
theorem witness_InstructionsFault_ret : faultsWith (exec .ret { base with pc := 0x202#16 }) (.stackUnderflow 0x200#16 0x00EE#16) = true := by decide
theorem witness_InstructionsFault_digits_range : faultsWith (exec (.ldBVx 5) { base with i := 0xFFE#16, pc := 0x202#16 })
    (.addressOutOfRange 0x200#16 (some 0xF533#16) 0x1000#16) = true := by decide
theorem witness_InstructionsFault_store_range : faultsWith (exec (.ldMemVx 15) { base with i := 0xFF1#16, pc := 0x202#16 })
    (.addressOutOfRange 0x200#16 (some 0xFF55#16) 0x1000#16) = true := by decide
theorem witness_InstructionsFault_load_range : faultsWith (exec (.ldVxMem 15) { base with i := 0xFF1#16, pc := 0x202#16 })
    (.addressOutOfRange 0x200#16 (some 0xFF65#16) 0x1000#16) = true := by decide
theorem witness_InstructionsFault_font : faultsWith (exec (.ldMemVx 0) { base with i := 0x04F#16, pc := 0x202#16 })
    (.fontWrite 0x200#16 0xF055#16 0x04F#16) = true := by decide
theorem witness_InstructionsFault_key : faultsWith (exec (.sknp 0) { base.setReg 0 0x10#8 with pc := 0x202#16 })
    (.keyIndexOutOfRange 0x200#16 0xE0A1#16 0x010#16) = true := by decide
theorem witness_FaultRepeatsUnchanged : ∃ t f, performStep { base with pc := 0xFFF#16 } = .performed t (.outcome (.Fault f)) := ⟨_, _, rfl⟩
theorem witness_RegistersChangeOnlyWhereNamed : (∃ t, exec (.ldVxMem 4) base = .next t) ∧ writesRegister (.ldVxMem 4) 5 = false :=
  ⟨⟨_, rfl⟩, by decide⟩
theorem witness_FlagOpcodes_drw : 15 ≤ 15 ∧ ((15 : Nat) = 0 ∨ ({ base with i := 0xFF1#16 } : State).i.toNat + 15 - 1 ≤ 0xFFF) := by decide
theorem witness_FlagOpcodes_changed : ∃ t, exec (.ldByte 15 1#8) base = .next t ∧ t.reg 15 ≠ base.reg 15 := ⟨_, rfl, by decide⟩
theorem witness_IndexChanged_written : ∃ t, exec (.addIVx 1) edge = .next t := ⟨_, rfl⟩
theorem witness_IndexChanged_kept : (∃ t, exec .cls edge = .next t) ∧ (∀ nnn, Instr.cls ≠ .ldI nnn) ∧ ∀ x, Instr.cls ≠ .addIVx x ∧ Instr.cls ≠ .ldFVx x :=
  ⟨⟨_, rfl⟩, by simp, by simp⟩
theorem witness_StackChanged_push : ∃ t, exec (.call 0xFFF#16) { base with stack := List.replicate 15 0x202#16 } = .next t := ⟨_, rfl⟩
theorem witness_StackChanged_pop : ∃ t, exec .ret edge = .next t := ⟨_, rfl⟩
theorem witness_StackChanged_full : edge.stack.length = 16 := by decide
theorem witness_StackChanged_empty : base.stack.length = 0 := by decide
theorem witness_TimersKeys_written : ∃ t, exec (.ldDtVx 3) edge = .next t := ⟨_, rfl⟩
theorem witness_TimersKeys_kept : (∃ t, exec (.ldStVx 3) edge = .next t) ∧ ∀ x, Instr.ldStVx 3 ≠ .ldDtVx x := ⟨⟨_, rfl⟩, by simp⟩
theorem witness_DisplayChanged_instruction : (∃ t, exec (.drw 0 0 0) edge = .next t) ∧ ∃ t, exec (.ldI 0#16) edge = .next t :=
  ⟨⟨_, rfl⟩, ⟨_, rfl⟩⟩
theorem witness_DisplayChanged_transaction : ∃ t r, perform .tick base = .performed t r ∧ Transaction.tick ≠ .step ∧ base.dirty = true :=
  ⟨_, _, rfl, by decide, by decide⟩
theorem witness_MemoryChanged_stored :
    (∃ t, exec (.ldMemVx 0) edge = .next t) ∧ ¬(indexAddress edge 0 ≤ 0xFFE ∧ 0xFFE < indexAddress edge 0 + storedCount (.ldMemVx 0)) :=
  ⟨⟨_, rfl⟩, by decide⟩
theorem witness_MemoryChanged_load :
    (∃ t r, perform (.load [1#8]) State.reset = .performed t r) ∧ Transaction.load [1#8] ≠ .step ∧ ¬(0x200 ≤ 0x201 ∧ 0x201 < 0x200 + [1#8].length) :=
  ⟨⟨_, _, rfl⟩, by decide, by decide⟩
theorem witness_ReturnPops : edge.stack = List.replicate 15 0x1000#16 ++ [0x1000#16] := by decide
theorem witness_ReturnUnderflows : base.stack = [] := by decide
theorem witness_CallPushes : ({ base with stack := List.replicate 15 0x202#16 } : State).stack.length < 16 := by decide
theorem witness_CallOverflows : edge.stack.length = 16 := by decide
theorem witness_Decimal_low : 0x050 ≤ ({ base with i := 0x050#16 } : State).i.toNat ∧ ({ base with i := 0x050#16 } : State).i.toNat + 2 ≤ 0xFFF := by decide
theorem witness_Decimal_high : 0x050 ≤ ({ base with i := 0xFFD#16 } : State).i.toNat ∧ ({ base with i := 0xFFD#16 } : State).i.toNat + 2 ≤ 0xFFF := by decide
theorem witness_Decimal_range : 0xFFF < ({ base with i := 0xFFE#16 } : State).i.toNat + 2 := by decide
theorem witness_Decimal_font : ({ base with i := 0x04F#16 } : State).i.toNat ≤ 0x04F := by decide
theorem witness_Stored_low : 0x050 ≤ ({ base with i := 0x050#16 } : State).i.toNat ∧ ({ base with i := 0x050#16 } : State).i.toNat + (0 : Reg).val ≤ 0xFFF := by decide
theorem witness_Stored_high : 0x050 ≤ ({ base with i := 0xFF0#16 } : State).i.toNat ∧ ({ base with i := 0xFF0#16 } : State).i.toNat + (15 : Reg).val ≤ 0xFFF := by decide
theorem witness_Stored_range : 0xFFF < ({ base with i := 0xFF1#16 } : State).i.toNat + (15 : Reg).val := by decide
theorem witness_Stored_font : ({ base with i := 0x04F#16 } : State).i.toNat ≤ 0x04F := by decide
theorem witness_Loaded : ({ base with i := 0xFF0#16 } : State).i.toNat + (15 : Reg).val ≤ 0xFFF := by decide
theorem witness_Loaded_range : 0xFFF < ({ base with i := 0xFF1#16 } : State).i.toNat + (15 : Reg).val := by decide
theorem witness_Draw : 15 ≤ 15 ∧ ((15 : Nat) = 0 ∨ ({ base with i := 0xFF1#16 } : State).i.toNat + 15 - 1 ≤ 0xFFF) := by decide
theorem witness_Draw_no_rows : 0 ≤ 15 ∧ ((0 : Nat) = 0 ∨ edge.i.toNat + 0 - 1 ≤ 0xFFF) := by decide
theorem witness_Draw_range : 0 < 2 ∧ 0xFFF < edge.i.toNat + 2 - 1 := by decide
theorem witness_DrawTwice : (0 : Reg) ≠ 15 ∧ (1 : Reg) ≠ 15 ∧ 5 ≤ 15 ∧ ∃ t, exec (.drw 0 1 5) base = .next t :=
  ⟨by decide, by decide, by decide, _, rfl⟩
theorem witness_DrawWraps :
    ((base.setReg 1 60#8).reg 1).toNat % 64 = 60 ∧ 5 ≤ 15 ∧ (∃ t, exec (.drw 1 2 5) (base.setReg 1 60#8) = .next t) ∧ 4 < 5 ∧
      (4 : Fin 32).val = ((base.setReg 1 60#8).reg 2).toNat % 32 + 4 :=
  ⟨by decide, by decide, ⟨_, rfl⟩, by decide, by decide⟩
theorem witness_KeyTests_key : ((base.setReg 1 15#8).reg 1).toNat = (15 : Reg).val := by decide
theorem witness_KeyTests_no_key : 15 < ((base.setReg 1 16#8).reg 1).toNat := by decide
theorem witness_KeyWait_down : (base.setKey 3 true).key 3 = true ∧ ∀ j : Reg, j < 3 → (base.setKey 3 true).key j = false := by decide
theorem witness_KeyWait_up : (∀ k, (atPc base 0xF50A#16).key k = false) ∧ (atPc base 0xF50A#16).pc.toNat + 1 ≤ 0xFFF ∧
    decode (atPc base 0xF50A#16).fetch = some (.ldVxK 5) := by decide
theorem witness_ReturnUndoesCall : ∃ t, exec (.call 0x300#16) { base with stack := List.replicate 15 0x202#16 } = .next t := ⟨_, rfl⟩
theorem witness_SixteenNestedCalls :
    (atPc base 0x2200#16).stack = [] ∧ (atPc base 0x2200#16).pc.toNat + 1 ≤ 0xFFF ∧
      decode (atPc base 0x2200#16).fetch = some (.call (atPc base 0x2200#16).pc) := by decide
theorem witness_LoadRestores : ∃ t t' : State, exec (.ldMemVx 15) { base with i := 0xFF0#16 } = .next t ∧ t'.mem = t.mem ∧
    t'.i = 0xFF0#16 ∧ t'.cfg = base.cfg := ⟨_, _, rfl, rfl, rfl, rfl⟩
theorem witness_StoredBytesAreFetched :
    (∃ t, exec (.ldMemVx 1) { base with i := 0x208#16 } = .next t) ∧ (1 : Reg).val = (0 : Reg).val + 1 ∧ (1 : Reg).val ≤ (1 : Reg).val ∧
      (0x208#16).toNat = ({ base with i := 0x208#16 } : State).i.toNat + (0 : Reg).val := ⟨⟨_, rfl⟩, by decide, by decide, by decide⟩
theorem witness_SetKey_refused : 15 < 16 := by decide
theorem witness_Load_fits : State.reset.loadOpen = true ∧ (List.replicate 3584 0xAA#8).length ≤ 3584 :=
  ⟨by decide, by rw [List.length_replicate]⟩
theorem witness_Load_too_long : State.reset.loadOpen = true ∧ 3584 < (List.replicate 3585 0#8).length :=
  ⟨by decide, by rw [List.length_replicate]; decide⟩
theorem witness_Load_closed : base.loadOpen = false := by decide
theorem witness_Load_after_step : ∃ t r, perform .step State.reset = .performed t r := ⟨_, _, rfl⟩
theorem witness_Load_stays_closed : (∃ t r, perform .tick base = .performed t r) ∧ base.loadOpen = false := ⟨⟨_, _, rfl⟩, by decide⟩
theorem witness_Load_not_read : ∃ t, exec (.ldMemVx 0) edge = .next t := ⟨_, rfl⟩
theorem witness_DirtyProtocol_draw : ∃ t, exec (.drw 0 0 1) edge = .next t := ⟨_, rfl⟩

/-- From 0x200 up the initial memory reads 0 (10_state.md R21). -/
theorem readByte_above_font (s : State) (a : Nat) (hs : s.mem = []) (ha : 80 ≤ a) : s.readByte a = 0#8 := by
  show s.mem.read s.cfg.font a = 0#8
  rw [hs]
  exact dif_neg (by omega)

theorem witness_RunningOff_step : ({ base with pc := 0xFFE#16 } : State).pc.toNat + 1 ≤ 0xFFF ∧
    ({ base with pc := 0xFFE#16 } : State).readByte 0xFFE = 0#8 ∧ ({ base with pc := 0xFFE#16 } : State).readByte 0xFFF = 0#8 := by decide
theorem witness_RunningOff_run :
    (∀ a, ({ base with pc := 0xFFC#16 } : State).pc.toNat ≤ a → a ≤ 0xFFF → ({ base with pc := 0xFFC#16 } : State).readByte a = 0#8) ∧
      ({ base with pc := 0xFFC#16 } : State).pc.toNat + 2 * 2 ≤ 0x1000 ∧ 0xFFF ≤ ({ base with pc := 0xFFC#16 } : State).pc.toNat + 2 * 2 :=
  ⟨fun a h _ => readByte_above_font _ a rfl (Nat.le_trans (by decide) h), by decide, by decide⟩

/-- One load, then steps and ticks in turn for ever. -/
def loadThenTurns : Schedule := fun n => if n = 0 then .load [0x12#8, 0x00#8] else if n % 2 = 0 then .tick else .step

theorem witness_Dutiful : State.reset.loadOpen = true ∧ ∀ n, keepsDuties loadThenTurns n := by
  refine ⟨by decide, fun n => ⟨fun m index pressed _ h => ?_, fun m bytes _ h j hj => ?_⟩⟩
  · unfold loadThenTurns at h; split at h <;> [skip; split at h] <;> cases h
  · unfold loadThenTurns at h
    split at h
    · omega
    · split at h <;> cases h
theorem witness_Dutiful_not : base.loadOpen = false ∧ ¬ keepsDuties (fun n => if n = 0 then .step else .load []) 2 :=
  ⟨by decide, fun h => (h.2 1 [] (by decide) rfl 0 (by decide)).1 rfl⟩

/-- Fx0A at 0x200 with key 0 down, and a jump back to it. -/
def waitLoop : State := (base.setKey 0 true).storeBytes 0x200 [0xF0#8, 0x0A#8, 0x12#8, 0x00#8]

theorem waitLoop_stateAfter (n : Nat) :
    stateAfter (fun _ => .step) waitLoop n = some waitLoop ∨ stateAfter (fun _ => .step) waitLoop n = some { waitLoop with pc := 0x202#16 } := by
  have there : perform .step waitLoop = .performed { waitLoop with pc := 0x202#16 } (.outcome .Continue) := rfl
  have back : perform .step { waitLoop with pc := 0x202#16 } = .performed waitLoop (.outcome .Continue) := rfl
  induction n with
  | zero => exact .inl rfl
  | succ n ih =>
    rcases ih with h | h
    · exact .inr (by simp only [stateAfter, h, there])
    · exact .inl (by simp only [stateAfter, h, back])

theorem witness_FairSchedules :
    admittedFrom (fun _ => .step) waitLoop ∧ keepsComing (fun _ => .step) .step ∧ stateAfter (fun _ => .step) waitLoop 0 = some waitLoop ∧
      waitLoop.loadOpen = false ∧ waitLoop.pc.toNat + 1 ≤ 0xFFF ∧ decode waitLoop.fetch = some (.ldVxK 0) ∧
      (∀ m index pressed, 0 ≤ m → (fun _ => Transaction.step : Schedule) m ≠ .setKey index pressed) ∧ waitLoop.key 0 = true ∧
      ∀ j : Reg, j < 0 → waitLoop.key j = false :=
  ⟨fun n => (waitLoop_stateAfter n).elim (fun h => ⟨_, h⟩) (fun h => ⟨_, h⟩), fun n => ⟨n, Nat.le_refl n, rfl⟩, rfl, by decide, by decide,
    by decide, by simp, by decide, by decide⟩

end Sys2Proof.Tests
end

section
/-! What an instruction that goes on does: one relation with a case per instruction, and what it says of each field of the state. The frame
statements and the invariant below are read off these lemmas. -/

namespace Sys2Proof.Machine

/-! ### LD_VX_MEM changes no field but V -/

section
variable (s : State) (x : Reg)

@[simp] theorem loadRegisters_mem : (loadRegisters s x).mem = s.mem := by rw [loadRegisters_frame]
@[simp] theorem loadRegisters_i : (loadRegisters s x).i = s.i := by rw [loadRegisters_frame]
@[simp] theorem loadRegisters_pc : (loadRegisters s x).pc = s.pc := by rw [loadRegisters_frame]
@[simp] theorem loadRegisters_stack : (loadRegisters s x).stack = s.stack := by rw [loadRegisters_frame]
@[simp] theorem loadRegisters_dt : (loadRegisters s x).dt = s.dt := by rw [loadRegisters_frame]
@[simp] theorem loadRegisters_st : (loadRegisters s x).st = s.st := by rw [loadRegisters_frame]
@[simp] theorem loadRegisters_keys : (loadRegisters s x).keys = s.keys := by rw [loadRegisters_frame]
@[simp] theorem loadRegisters_pix : (loadRegisters s x).pix = s.pix := by rw [loadRegisters_frame]
@[simp] theorem loadRegisters_dirty : (loadRegisters s x).dirty = s.dirty := by rw [loadRegisters_frame]
@[simp] theorem loadRegisters_loadOpen : (loadRegisters s x).loadOpen = s.loadOpen := by rw [loadRegisters_frame]
@[simp] theorem loadRegisters_cfg : (loadRegisters s x).cfg = s.cfg := by rw [loadRegisters_frame]

end

/-- `Effect s i t`: the instruction `i` goes on from `s`, its checks having passed, and leads to `t` (tied to `exec` by `exec_eq_next`). -/
inductive Effect (s : State) : Instr → State → Prop
  | cls : Effect s .cls (s.setDisplay blankDisplay)
  | ret (a : Word) (top : s.stack.getLast? = some a) : Effect s .ret (s.dropTop.jump a)
  | jp (nnn : Word) : Effect s (.jp nnn) (s.jump nnn)
  | call (nnn : Word) (room : s.stack.length < 16) : Effect s (.call nnn) ((s.push s.pc).jump nnn)
  | seByte (x : Reg) (nn : Byte) : Effect s (.seByte x nn) (s.skipIf (s.reg x == nn))
  | sneByte (x : Reg) (nn : Byte) : Effect s (.sneByte x nn) (s.skipIf (s.reg x != nn))
  | seReg (x y : Reg) : Effect s (.seReg x y) (s.skipIf (s.reg x == s.reg y))
  | ldByte (x : Reg) (nn : Byte) : Effect s (.ldByte x nn) (s.setReg x nn)
  | addByte (x : Reg) (nn : Byte) : Effect s (.addByte x nn) (s.setReg x (sumByte (s.reg x) nn))
  | ldReg (x y : Reg) : Effect s (.ldReg x y) (s.setReg x (s.reg y))
  | or (x y : Reg) : Effect s (.or x y) (s.setReg x (s.reg x ||| s.reg y))
  | and (x y : Reg) : Effect s (.and x y) (s.setReg x (s.reg x &&& s.reg y))
  | xor (x y : Reg) : Effect s (.xor x y) (s.setReg x (s.reg x ^^^ s.reg y))
  | addReg (x y : Reg) :
      Effect s (.addReg x y) (s.setResultAndFlag x (sumByte (s.reg x) (s.reg y)) (carryFlag (s.reg x) (s.reg y)))
  | sub (x y : Reg) :
      Effect s (.sub x y) (s.setResultAndFlag x (differenceByte (s.reg x) (s.reg y)) (notBorrowFlag (s.reg x) (s.reg y)))
  | shr (x y : Reg) : Effect s (.shr x y) (s.setResultAndFlag x (halfByte (s.reg x)) (shiftedOutFlag (s.reg x)))
  | subn (x y : Reg) :
      Effect s (.subn x y) (s.setResultAndFlag x (differenceByte (s.reg y) (s.reg x)) (notBorrowFlag (s.reg y) (s.reg x)))
  | sneReg (x y : Reg) : Effect s (.sneReg x y) (s.skipIf (s.reg x != s.reg y))
  | ldI (nnn : Word) : Effect s (.ldI nnn) (s.setIndex nnn)
  | drw (x y : Reg) (n : Nat) (range : n = 0 ∨ s.i.toNat + n ≤ 0x1000) :
      Effect s (.drw x y n) ((s.setDisplay (drawnBy s x y n).1).setFlag (flagByte (drawnBy s x y n).2))
  | skp (x : Reg) (key : (s.reg x).toNat ≤ 15) : Effect s (.skp x) (s.skipIf (s.key (Fin.ofNat 16 (s.reg x).toNat)))
  | sknp (x : Reg) (key : (s.reg x).toNat ≤ 15) : Effect s (.sknp x) (s.skipIf (!s.key (Fin.ofNat 16 (s.reg x).toNat)))
  | ldVxDt (x : Reg) : Effect s (.ldVxDt x) (s.setReg x s.dt)
  | ldVxKWaits (x : Reg) (up : ∀ k, s.key k = false) : Effect s (.ldVxK x) s.rewind
  | ldVxKTakes (x k : Reg) (down : s.key k = true) (least : ∀ j : Reg, j < k → s.key j = false) :
      Effect s (.ldVxK x) (s.setReg x (BitVec.ofNat 8 k.val))
  | ldDtVx (x : Reg) : Effect s (.ldDtVx x) { s with dt := s.reg x }
  | ldStVx (x : Reg) : Effect s (.ldStVx x) { s with st := s.reg x }
  | addIVx (x : Reg) :
      Effect s (.addIVx x)
        ((s.setIndex (BitVec.ofNat 16 ((s.i.toNat + (s.reg x).toNat) % 4096))).setFlag (indexOverflowFlag s.i (s.reg x)))
  | ldFVx (x : Reg) : Effect s (.ldFVx x) (s.setIndex (BitVec.ofNat 16 ((s.reg x).toNat * 5)))
  | ldBVx (x : Reg) (range : s.i.toNat + 3 ≤ 0x1000) (font : 0x050 ≤ s.i.toNat) :
      Effect s (.ldBVx x) (s.storeBytes s.i.toNat (decimalDigits (s.reg x)))
  | ldMemVx (x : Reg) (range : s.i.toNat + x.val + 1 ≤ 0x1000) (font : 0x050 ≤ s.i.toNat) :
      Effect s (.ldMemVx x) (s.storeBytes s.i.toNat (registersUpTo s x))
  | ldVxMem (x : Reg) (range : s.i.toNat + x.val + 1 ≤ 0x1000) : Effect s (.ldVxMem x) (loadRegisters s x)

variable {s t : State} {i : Instr}

/-- Everything an instruction that goes on can do (40_cycle.md R94). -/
theorem effect_of_exec (h : exec i s = .next t) : Effect s i t := by
  cases i
  case ret => obtain ⟨a, ha, rfl⟩ := (execRet_eq_next s t).mp h; exact .ret a ha
  case call nnn => obtain ⟨room, rfl⟩ := (execCall_eq_next nnn s t).mp h; exact .call nnn room
  case drw x y n => obtain ⟨range, rfl⟩ := (execDrw_eq_next x y n s t).mp h; exact .drw x y n range
  case skp x => obtain ⟨key, rfl⟩ := (execSkp_eq_next x s t).mp h; exact .skp x key
  case sknp x => obtain ⟨key, rfl⟩ := (execSknp_eq_next x s t).mp h; exact .sknp x key
  case ldVxK x =>
    obtain ⟨up, rfl⟩ | ⟨k, down, least, rfl⟩ := (execLdVxK_eq_next x s t).mp h
    · exact .ldVxKWaits x up
    · exact .ldVxKTakes x k down least
  case ldBVx x => obtain ⟨range, font, rfl⟩ := (execLdBVx_eq_next x s t).mp h; exact .ldBVx x range font
  case ldMemVx x => obtain ⟨range, font, rfl⟩ := (execLdMemVx_eq_next x s t).mp h; exact .ldMemVx x range font
  case ldVxMem x => obtain ⟨range, rfl⟩ := (execLdVxMem_eq_next x s t).mp h; exact .ldVxMem x range
  all_goals cases h; constructor

theorem exec_of_effect (h : Effect s i t) : exec i s = .next t := by
  cases h
  case ret a top => exact (execRet_eq_next s _).mpr ⟨a, top, rfl⟩
  case call nnn room => exact (execCall_eq_next nnn s _).mpr ⟨room, rfl⟩
  case drw x y n range => exact (execDrw_eq_next x y n s _).mpr ⟨range, rfl⟩
  case skp x key => exact (execSkp_eq_next x s _).mpr ⟨key, rfl⟩
  case sknp x key => exact (execSknp_eq_next x s _).mpr ⟨key, rfl⟩
  case ldVxKWaits x up => exact (execLdVxK_eq_next x s _).mpr (.inl ⟨up, rfl⟩)
  case ldVxKTakes x k down least => exact (execLdVxK_eq_next x s _).mpr (.inr ⟨k, down, least, rfl⟩)
  case ldBVx x range font => exact (execLdBVx_eq_next x s _).mpr ⟨range, font, rfl⟩
  case ldMemVx x range font => exact (execLdMemVx_eq_next x s _).mpr ⟨range, font, rfl⟩
  case ldVxMem x range => exact (execLdVxMem_eq_next x s _).mpr ⟨range, rfl⟩
  all_goals rfl

/-- The inversion of `exec`, both ways. -/
theorem exec_eq_next : exec i s = .next t ↔ Effect s i t := ⟨effect_of_exec, exec_of_effect⟩

/-! ### Field by field -/

namespace Effect

theorem cfg_eq (h : Effect s i t) : t.cfg = s.cfg := by cases h <;> simp
theorem keys_eq (h : Effect s i t) : t.keys = s.keys := by cases h <;> simp
theorem loadOpen_eq (h : Effect s i t) : t.loadOpen = s.loadOpen := by cases h <;> simp

/-- An instruction leaves memory alone, or stores its bytes from I up, all of them above the font and inside the address space. -/
theorem mem_eq_or_stores (h : Effect s i t) :
    t.mem = s.mem ∨
      ∃ bs, t = s.storeBytes s.i.toNat bs ∧ bs.length = storedCount i ∧ 0x050 ≤ s.i.toNat ∧ s.i.toNat + bs.length ≤ 0x1000 := by
  cases h
  case ldBVx x range font => exact .inr ⟨_, rfl, rfl, font, range⟩
  case ldMemVx x range font => exact .inr ⟨_, rfl, registersUpTo_length s x, font, by simpa [← Nat.add_assoc] using range⟩
  all_goals exact .inl (by simp)

end Effect

end Sys2Proof.Machine
end

section
/-! The frames of the instructions (10_state.md R24-R44; 40_cycle.md R99), each read off the cases of `Effect`. -/

namespace Sys2Proof.Machine

section
variable {s t : State} {i : Instr}

/-! ### Registers -/

/-- The registers an instruction writes are those `writesRegister` names (10_state.md R24, R25). -/
theorem Effect.reg_eq (h : Effect s i t) (r : Reg) (hr : writesRegister i r = false) : t.reg r = s.reg r := by
  cases h
  case ldVxMem x _ =>
    have : ¬ r.val ≤ x.val := of_decide_eq_false hr
    rw [loadRegisters_reg, if_neg this]
  case ldDtVx | ldStVx => rfl
  all_goals simp_all [writesRegister]

/-- `VF` is written by the six flag opcodes and where it is a named destination (10_state.md R25). -/
theorem writesRegister_flag (h : writesRegister i 15 = true) :
    (∃ x y, i = .addReg x y ∨ i = .sub x y ∨ i = .shr x y ∨ i = .subn x y ∨ (∃ n, i = .drw x y n) ∨ i = .addIVx x) ∨
    (∃ nn, i = .ldByte 15 nn ∨ i = .addByte 15 nn) ∨
    (∃ y, i = .ldReg 15 y ∨ i = .or 15 y ∨ i = .and 15 y ∨ i = .xor 15 y) ∨
    i = .ldVxDt 15 ∨ i = .ldVxK 15 ∨ i = .ldVxMem 15 := by
  cases i
  case ldVxMem x =>
    have hx : 15 ≤ x.val := of_decide_eq_true h
    have : x = 15 := Fin.ext (by have := x.isLt; show x.val = 15; omega)
    simp [this]
  all_goals simp_all [writesRegister]

/-- A flag is 1 exactly when its condition holds (42_register_alu.md R143). -/
theorem flagByte_eq_ite (b : Bool) (p : Prop) [Decidable p] (h : b = true ↔ p) : flagByte b = if p then 1#8 else 0#8 := by
  simp only [flagByte, h]

/-- A draw reports a collision exactly when some pixel went from 1 to 0 (44_display.md R182). -/
theorem drawnBy_collides_iff (s : State) (x y : Reg) (n : Nat) (hn : n ≤ 32) :
    (drawnBy s x y n).2 = true ↔ ∃ r c, s.pixel r c = true ∧ (drawnBy s x y n).1.pixel r c = false := by
  obtain ⟨hpix, hflag⟩ := drawSprite_spec s.cfg.drawRowMode (indexByte s) n (startRow s y) (startColumn s x) s.pix hn
  unfold drawnBy State.pixel
  rw [hflag, Prod.exists]
  refine exists_congr fun r => exists_congr fun c => ?_
  rw [hpix]
  cases s.pix.pixel r c <;> simp

/-! ### The timers -/

/-- Only Fx15 writes DT and only Fx18 writes ST (10_state.md R33). -/
theorem Effect.timers (h : Effect s i t) :
    (∀ x, i = .ldDtVx x → t.dt = s.reg x) ∧ ((∀ x, i ≠ .ldDtVx x) → t.dt = s.dt) ∧
      (∀ x, i = .ldStVx x → t.st = s.reg x) ∧ ((∀ x, i ≠ .ldStVx x) → t.st = s.st) := by
  cases h <;> simp

/-! ### The display -/

/-- Only 00E0 and Dxyn touch the display, and they set DIRTY (10_state.md R40, R42). -/
theorem Effect.display (h : Effect s i t) :
    (i = .cls → t.dirty = true) ∧ (∀ x y n, i = .drw x y n → t.dirty = true) ∧
      (i ≠ .cls → (∀ x y n, i ≠ .drw x y n) → t.pix = s.pix ∧ t.dirty = s.dirty) := by
  cases h <;> simp

theorem Effect.keeps_dirty (h : Effect s i t) (hs : s.dirty = true) : t.dirty = true := by
  cases h <;> simp [hs]

/-- No step clears DIRTY, whatever its outcome (10_state.md R42). -/
theorem performStep_keeps_dirty {r : Reply} (h : performStep s = .performed t r) (hs : s.dirty = true) : t.dirty = true := by
  obtain ⟨hstep, -⟩ | ⟨f, -, rfl, -⟩ := (performStep_eq_performed s t r).mp h
  · obtain ⟨-, ⟨i, -, hi⟩ | ⟨-, rfl⟩⟩ := (step_eq_next s t).mp hstep
    · exact (effect_of_exec hi).keeps_dirty hs
    · exact hs
  · exact hs

/-- What a host call other than `step` does to the state (60_exceptions.md R240). -/
theorem perform_of_ne_step {tr : Transaction} {r : Reply} (h : perform tr s = .performed t r) (hne : tr ≠ .step) :
    (∃ bytes, tr = .load bytes ∧ bytes.length ≤ 3584 ∧ t = s.loadProgram bytes) ∨
    (tr = .tick ∧ t = s.tick) ∨
    (∃ k p, tr = .setKey k p ∧ t = s.setKey (Fin.ofNat 16 k) p) ∨
    (tr = .consumeDirty ∧ t = s.clearDirty) ∨
    (tr ≠ .consumeDirty ∧ t = s) := by
  cases tr with
  | load bytes =>
    obtain ⟨-, ⟨hlen, ht, -⟩ | ⟨-, ht, -⟩⟩ := (performLoad_eq_performed bytes s t r).mp h
    · exact .inl ⟨bytes, rfl, hlen, ht⟩
    · simp [ht]
  | step => exact absurd rfl hne
  | tick => cases h; simp
  | setKey k p =>
    obtain ⟨-, ht, -⟩ := (performSetKey_eq_performed k p s t r).mp h
    exact .inr (.inr (.inl ⟨k, p, rfl, ht⟩))
  | isDirty => cases h; simp
  | consumeDirty => cases h; simp

/-! ### Memory -/

theorem State.readByte_congr (hmem : t.mem = s.mem) (hcfg : t.cfg = s.cfg) (a : Nat) : t.readByte a = s.readByte a := by
  rw [State.readByte, State.readByte, hmem, hcfg]

/-- A byte outside those an instruction stores reads as before (20_memory.md R55, R62). -/
theorem Effect.readByte_eq (h : Effect s i t) (a : Nat) (ha : ¬(s.i.toNat ≤ a ∧ a < s.i.toNat + storedCount i)) :
    t.readByte a = s.readByte a := by
  obtain hmem | ⟨bs, rfl, hlen, -, -⟩ := h.mem_eq_or_stores
  · exact State.readByte_congr hmem h.cfg_eq a
  · rw [State.readByte_storeBytes, dif_neg (by rwa [hlen])]

/-- A host call other than `step` stores only the bytes that `load` is given, at 0x200 up (70_reset_and_hazards.md R263). -/
theorem perform_readByte_of_ne_step {tr : Transaction} {r : Reply} (h : perform tr s = .performed t r) (hne : tr ≠ .step) (a : Nat)
    (ha : ∀ bytes, tr = .load bytes → ¬(0x200 ≤ a ∧ a < 0x200 + bytes.length)) : t.readByte a = s.readByte a := by
  obtain ⟨bytes, rfl, -, rfl⟩ | ⟨-, rfl⟩ | ⟨k, p, -, rfl⟩ | ⟨-, rfl⟩ | ⟨-, rfl⟩ := perform_of_ne_step h hne
  case inl => exact (State.readByte_storeBytes s 0x200 a bytes).trans (dif_neg (ha bytes rfl))
  all_goals rfl

end

/-! ### The frame statements -/

/-- Settles O23, by the destinations of each case of `Effect`. -/
theorem registersChangeOnlyWhereNamed : Obligations.RegistersChangeOnlyWhereNamed :=
  fun _ _ _ r h hr => (effect_of_exec h).reg_eq r hr

/-- Settles O24: the flag is the last write of the six flag opcodes, and no other instruction writes VF unless it names it. -/
theorem flagOpcodesEndWithTheFlag : Obligations.FlagOpcodesEndWithTheFlag := by
  refine ⟨fun x y s => ⟨_, rfl, ?_⟩, fun x y s => ⟨_, rfl, ?_⟩, fun x y s => ⟨_, rfl, ?_⟩, fun x y s => ⟨_, rfl, ?_⟩,
    fun x y n s hn hr => ⟨_, exec_of_effect (.drw x y n (by omega)), ?_⟩, fun x s => ⟨_, rfl, ?_⟩, fun i s t h hv => ?_⟩
  · simp [carryFlag, flagByte]
  · simp [notBorrowFlag, flagByte]
  · simp [shiftedOutFlag]; omega
  · simp [notBorrowFlag, flagByte]
  · rw [State.reg_setFlag, if_pos rfl]
    exact flagByte_eq_ite _ _ (drawnBy_collides_iff s x y n (by omega))
  · simp [indexOverflowFlag, flagByte]
  · exact writesRegister_flag (Bool.of_not_eq_false fun hw => hv ((effect_of_exec h).reg_eq 15 hw))

/-- Settles O25: of the cases of `Effect` only Annn, Fx1E and Fx29 set I. -/
theorem indexChangedOnlyByItsWriters : Obligations.IndexChangedOnlyByItsWriters := by
  intro i s t h
  cases effect_of_exec h
  case addIVx x => simp; omega
  case ldFVx x => have := (s.reg x).isLt; simp; omega
  all_goals simp

/-- Settles O26: of the cases of `Effect` only CALL pushes and only RET pops; on the full and the empty stack they fault. -/
theorem stackChangedOnlyByCallAndReturn : Obligations.StackChangedOnlyByCallAndReturn := by
  refine ⟨fun i s t h => ?_, fun nnn s hs => ⟨.stackOverflow s.opcodeAddress (encode (.call nnn)), ?_, rfl⟩,
    fun s hs => ⟨.stackUnderflow s.opcodeAddress (encode .ret), ?_, rfl⟩⟩
  · cases effect_of_exec h
    case ret a top => simp [List.dropLast_append_getLast? a top]
    case call nnn room => simp; omega
    all_goals simp
  · simp [exec, execCall, State.stackFull, hs, raise]
  · simp [exec, execRet, List.eq_nil_of_length_eq_zero hs, raise]

/-- Settles O27: the timers by `Effect.timers`; no case of `Effect` sets KEY, LOAD_OPEN or the parameters. -/
theorem timersKeysAndHostBitsUnderInstructions : Obligations.TimersKeysAndHostBitsUnderInstructions := by
  intro i s t h
  have e := effect_of_exec h
  obtain ⟨hdt, hdtFrame, hst, hstFrame⟩ := e.timers
  exact ⟨hdt, hdtFrame, hst, hstFrame, e.keys_eq, e.loadOpen_eq, e.cfg_eq⟩

/-- Settles O28: the instructions by `Effect.display`, the other host calls by what each does. -/
theorem displayChangedOnlyByClearAndDraw : Obligations.DisplayChangedOnlyByClearAndDraw := by
  refine ⟨fun i s t h => (effect_of_exec h).display, fun tr s t r h => ?_⟩
  by_cases hstep : tr = .step
  · subst hstep
    simpa using performStep_keeps_dirty h
  · obtain ⟨bytes, rfl, -, rfl⟩ | ⟨rfl, rfl⟩ | ⟨k, p, rfl, rfl⟩ | ⟨rfl, rfl⟩ | ⟨hne, rfl⟩ := perform_of_ne_step h hstep
    · simp
    · simp
    · simp
    · simp
    · simp [hne]

/-- Settles O29, by the one lemma on memory for the instructions and the one for the other host calls. -/
theorem memoryChangedOnlyWhereStored : Obligations.MemoryChangedOnlyWhereStored :=
  ⟨fun _ _ _ a h ha => (effect_of_exec h).readByte_eq a ha, fun _ _ _ _ a h hne ha => perform_readByte_of_ne_step h hne a ha⟩

end Sys2Proof.Machine
end

section
/-! What the decoder gives is well-formed and encodes to the opcode it came from (30_encoding.md R71, R74, R79). -/

namespace Sys2Proof

/-- The nnn field of an opcode is a 12-bit address (30_encoding.md R72). -/
theorem addressFits_fieldNNN (op : Word) : addressFits (fieldNNN op) = true := by
  refine decide_eq_true ?_
  simp only [fieldNNN, BitVec.toNat_ofNat]
  omega

/-- The n field of an opcode is at most 15 (30_encoding.md R72). -/
theorem rowsFit_fieldN (op : Word) : rowsFit (fieldN op) = true :=
  decide_eq_true (by simp only [fieldN]; omega)

theorem packXB_of_fields {op : Word} {f low : Nat} (hf : fieldFamily op = f) (hl : op.toNat % 0x100 = low) :
    packXB f (fieldX op) low = op := by
  rw [← hf, ← hl, packXB_fields]

theorem packXYN_of_fields {op : Word} {f low : Nat} (hf : fieldFamily op = f) (hl : fieldN op = low) :
    packXYN f (fieldX op) (fieldY op) low = op := by
  rw [← hf, ← hl, packXYN_fields]

theorem packNNN_of_family {op : Word} {f : Nat} (hf : fieldFamily op = f) : packNNN f (fieldNNN op) = op := by
  rw [← hf, packNNN_fields]

/-- The low byte of an opcode is its nn field (30_encoding.md R71). -/
theorem packXB_of_family {op : Word} {f : Nat} (hf : fieldFamily op = f) : packXB f (fieldX op) (fieldNN op).toNat = op :=
  packXB_of_fields hf (by simp only [fieldNN, BitVec.toNat_ofNat]; omega)

section
variable {op : Word} {i : Instr}

theorem decodeFamily0_sound (h : decodeFamily0 op = some i) : encode i = op ∧ i.wellFormed = true := by
  unfold decodeFamily0 at h
  split at h
  next hop => cases h; exact ⟨hop.symm, rfl⟩
  next =>
    split at h
    next hop => cases h; exact ⟨hop.symm, rfl⟩
    next => cases h

theorem decodeFamily8_sound (hf : fieldFamily op = 0x8) (h : decodeFamily8 op = some i) : encode i = op ∧ i.wellFormed = true := by
  unfold decodeFamily8 at h
  split at h <;> cases h <;> exact ⟨packXYN_of_fields hf ‹_›, rfl⟩

theorem decodeFamilyE_sound (hf : fieldFamily op = 0xE) (h : decodeFamilyE op = some i) : encode i = op ∧ i.wellFormed = true := by
  unfold decodeFamilyE at h
  split at h <;> cases h <;> exact ⟨packXB_of_fields hf ‹_›, rfl⟩

theorem decodeFamilyF_sound (hf : fieldFamily op = 0xF) (h : decodeFamilyF op = some i) : encode i = op ∧ i.wellFormed = true := by
  unfold decodeFamilyF at h
  split at h <;> cases h <;> exact ⟨packXB_of_fields hf ‹_›, rfl⟩

/-- A decoded instruction is well-formed and encodes to the opcode it was decoded from (30_encoding.md R71, R74). -/
theorem decode_sound (h : decode op = some i) : encode i = op ∧ i.wellFormed = true := by
  unfold decode at h
  split at h
  next => exact decodeFamily0_sound h
  next hf => cases h; exact ⟨packNNN_of_family hf, addressFits_fieldNNN op⟩
  next hf => cases h; exact ⟨packNNN_of_family hf, addressFits_fieldNNN op⟩
  next hf => cases h; exact ⟨packXB_of_family hf, rfl⟩
  next hf => cases h; exact ⟨packXB_of_family hf, rfl⟩
  next hf =>
    obtain ⟨hn, hi⟩ := Option.ite_none_right_eq_some.mp h
    cases hi; exact ⟨packXYN_of_fields hf hn, rfl⟩
  next hf => cases h; exact ⟨packXB_of_family hf, rfl⟩
  next hf => cases h; exact ⟨packXB_of_family hf, rfl⟩
  next hf => exact decodeFamily8_sound hf h
  next hf =>
    obtain ⟨hn, hi⟩ := Option.ite_none_right_eq_some.mp h
    cases hi; exact ⟨packXYN_of_fields hf hn, rfl⟩
  next hf => cases h; exact ⟨packNNN_of_family hf, addressFits_fieldNNN op⟩
  next hf => cases h; exact ⟨packXYN_of_fields hf rfl, rowsFit_fieldN op⟩
  next hf => exact decodeFamilyE_sound hf h
  next hf => exact decodeFamilyF_sound hf h
  next => cases h
end

end Sys2Proof
end

section
/-! The state invariant along steps (10_state.md R28, R30, R31, R37; 41_control_flow.md R111), part by part, and the font along sequences of
host calls (R37). -/

namespace Sys2Proof.Machine

/-! ### Reset -/

/-- Settles O1: unlisted memory reads as its initial byte, and the vectors of reset hold one value each. -/
theorem resetStateIsAsSpecified : Obligations.ResetStateIsAsSpecified := by
  refine ⟨fun a => rfl, fun r => ?_, rfl, rfl, rfl, rfl, rfl, fun k => ?_, fun r c => ?_, rfl, rfl⟩
  · exact Vector.getElem_replicate r.isLt
  · exact Vector.getElem_replicate k.isLt
  · simp [State.pixel, Display.pixel, State.reset, blankDisplay]

/-- Settles O2: reset lists no byte and no return address, and its I and PC are in range. -/
theorem resetSatisfiesTheInvariant : Obligations.ResetSatisfiesTheInvariant :=
  ⟨⟨List.Pairwise.nil, fun _ h => absurd h List.not_mem_nil⟩, fun _ h => absurd h List.not_mem_nil, by decide, by decide, by decide, rfl⟩

/-! ### What an instruction keeps of the invariant -/

section
variable {s t : State} {i : Instr}

/-- Memory stays canonical and lists no font address (10_state.md R37; 20_memory.md R61). -/
theorem Effect.keeps_memory (h : Effect s i t) (hwf : s.mem.wf s.cfg.font) (hfont : ∀ c ∈ s.mem, 0x050 ≤ c.1) :
    t.mem.wf t.cfg.font ∧ ∀ c ∈ t.mem, 0x050 ≤ c.1 := by
  obtain hmem | ⟨bs, rfl, -, hlo, hhi⟩ := h.mem_eq_or_stores
  · rw [hmem, h.cfg_eq]
    exact ⟨hwf, hfont⟩
  · exact ⟨Memory.writeBytes_wf _ bs _ _ hwf hhi, Memory.writeBytes_above _ 0x050 bs _ _ hfont hlo⟩

/-- I stays within the address space (10_state.md R28). -/
theorem Effect.keeps_index (h : Effect s i t) (hw : i.wellFormed = true) (hi : s.i.toNat ≤ 0xFFF) : t.i.toNat ≤ 0xFFF := by
  cases h
  case ldI nnn => exact of_decide_eq_true hw
  case addIVx x => simp; omega
  case ldFVx x =>
    have := (s.reg x).isLt
    rw [State.setIndex_i, BitVec.toNat_ofNat]
    exact Nat.le_trans (Nat.mod_le _ _) (by omega)
  all_goals simpa using hi

/-- A skip moves PC by at most 2. -/
theorem State.skipIf_pc_le (s : State) (c : Bool) (hpc : s.pc.toNat ≤ 0x1000) : (s.skipIf c).pc.toNat ≤ 0x1002 := by
  cases c <;> simp [BitVec.toNat_add] <;> omega

/-- PC stays at most 0x1002: a jump goes to at most 0xFFF, a return to at most 0x1000, a skip adds 2 and a key wait takes 2 off
(10_state.md R30). -/
theorem Effect.pc_le (h : Effect s i t) (hw : i.wellFormed = true) (hlo : 2 ≤ s.pc.toNat) (hhi : s.pc.toNat ≤ 0x1000)
    (hstack : ∀ a ∈ s.stack, a.toNat ≤ 0x1000) : t.pc.toNat ≤ 0x1002 := by
  cases h
  case ret a top => exact Nat.le_trans (hstack a (List.mem_of_getLast? top)) (by decide)
  case jp nnn | call nnn _ => exact Nat.le_trans (of_decide_eq_true hw) (by decide)
  case seByte | sneByte | seReg | sneReg | skp | sknp => exact s.skipIf_pc_le _ hhi
  case ldVxKWaits => simp [BitVec.toNat_sub]; omega
  all_goals simp; omega

/-- The stack stays within its 16 entries, and each is at most 0x1000 (10_state.md R31; 41_control_flow.md R111). -/
theorem Effect.keeps_stack (h : Effect s i t) (hpc : s.pc.toNat ≤ 0x1000) (hdepth : s.stack.length ≤ 16)
    (hstack : ∀ a ∈ s.stack, a.toNat ≤ 0x1000) : t.stack.length ≤ 16 ∧ ∀ a ∈ t.stack, a.toNat ≤ 0x1000 := by
  cases h
  case ret => exact ⟨by simp; omega, fun a ha => hstack a (List.mem_of_mem_dropLast ha)⟩
  case call nnn room =>
    refine ⟨by simp; omega, fun a ha => ?_⟩
    obtain ha | rfl : a ∈ s.stack ∨ a = s.pc := by simpa using ha
    · exact hstack a ha
    · exact hpc
  all_goals simpa using ⟨hdepth, hstack⟩

/-- An instruction run where a step runs it, PC being past the opcode, keeps the invariant. -/
theorem Effect.keeps_inv (h : Effect s i t) (hw : i.wellFormed = true) (hs : s.Inv) (hlo : 2 ≤ s.pc.toNat) (hhi : s.pc.toNat ≤ 0x1000) :
    t.Inv := by
  obtain ⟨hwf, hfont, hi, -, hdepth, hall⟩ := hs
  have hstack : ∀ a ∈ s.stack, a.toNat ≤ 0x1000 := by simpa using hall
  obtain ⟨hwf', hfont'⟩ := h.keeps_memory hwf hfont
  obtain ⟨hdepth', hstack'⟩ := h.keeps_stack hhi hdepth hstack
  exact ⟨hwf', hfont', h.keeps_index hw hi, h.pc_le hw hlo hhi hstack, hdepth', by simpa using hstack'⟩

/-- PC after the fetch advance of a fetch that passed its check (20_memory.md R59; 40_cycle.md R92). -/
theorem State.toNat_pc_advance (s : State) (hf : s.pc.toNat + 1 ≤ 0xFFF) : s.closeLoad.advance.pc.toNat = s.pc.toNat + 2 := by
  simp [BitVec.toNat_add]; omega

/-- The fetch advance keeps the invariant. -/
theorem State.Inv.advance (hs : s.Inv) (hf : s.pc.toNat + 1 ≤ 0xFFF) : s.closeLoad.advance.Inv := by
  have hpc := s.toNat_pc_advance hf
  obtain ⟨hwf, hfont, hi, -, hdepth, hall⟩ := hs
  exact ⟨hwf, hfont, hi, by omega, hdepth, hall⟩

end

/-- Settles O3: the fetch advance keeps the invariant, and so does the instruction run after it, which the decoder makes well-formed. -/
theorem stepKeepsTheInvariant : Obligations.StepKeepsTheInvariant := by
  intro s t hs h
  obtain ⟨hf, ⟨i, hd, hi⟩ | ⟨-, rfl⟩⟩ := (step_eq_next s t).mp h
  · have hpc := s.toNat_pc_advance hf
    exact (effect_of_exec hi).keeps_inv (decode_sound hd).2 (hs.advance hf) (by omega) (by omega)
  · exact hs.advance hf

/-! ### The font -/

section
variable {s t : State} {r : Reply}

/-- No instruction changes a byte of the font, since a store below 0x050 faults (20_memory.md R61). -/
theorem Effect.font_eq {i : Instr} (h : Effect s i t) (a : Nat) (ha : a ≤ 0x04F) : t.readByte a = s.readByte a := by
  obtain hmem | ⟨bs, rfl, -, hlo, -⟩ := h.mem_eq_or_stores
  · exact State.readByte_congr hmem h.cfg_eq a
  · rw [State.readByte_storeBytes, dif_neg (by omega)]

/-- No step changes a byte of the font, whatever its outcome. -/
theorem performStep_font_eq (h : performStep s = .performed t r) (a : Nat) (ha : a ≤ 0x04F) : t.readByte a = s.readByte a := by
  obtain ⟨hstep, -⟩ | ⟨f, -, rfl, -⟩ := (performStep_eq_performed s t r).mp h
  · obtain ⟨-, ⟨i, -, hi⟩ | ⟨-, rfl⟩⟩ := (step_eq_next s t).mp hstep
    · exact (effect_of_exec hi).font_eq a ha
    · rfl
  · rfl

/-- No host call changes a byte of the font (10_state.md R37). -/
theorem perform_font_eq {tr : Transaction} (h : perform tr s = .performed t r) (a : Nat) (ha : a ≤ 0x04F) :
    t.readByte a = s.readByte a := by
  by_cases hstep : tr = .step
  · subst hstep
    exact performStep_font_eq h a ha
  · exact perform_readByte_of_ne_step h hstep a fun bytes _ => by omega

/-- A sequence of host calls goes through when its first call does and the rest go through from there (60_exceptions.md R243). -/
theorem performAll_cons_eq_some (tr : Transaction) (ts : List Transaction) :
    performAll (tr :: ts) s = some t ↔ ∃ u r, perform tr s = .performed u r ∧ performAll ts u = some t := by
  rw [performAll]
  cases perform tr s <;> simp

/-- No finite sequence of host calls changes a byte of the font (10_state.md R37). -/
theorem performAll_font_eq {ts : List Transaction} (h : performAll ts s = some t) (a : Nat) (ha : a ≤ 0x04F) :
    t.readByte a = s.readByte a := by
  induction ts generalizing s with
  | nil => cases h; rfl
  | cons tr ts ih =>
    obtain ⟨u, r, hp, hu⟩ := (performAll_cons_eq_some tr ts).mp h
    exact (ih hu).trans (perform_font_eq hp a ha)

/-- A store that starts in the font passes the range check and is found by the font check (20_memory.md R61). -/
theorem checkStore_in_font (s : State) (k : Nat) (hk : k ≤ 16) (hi : s.i.toNat ≤ 0x04F) :
    checkStore s k = some fun pc op => .fontWrite pc op s.i := by
  have hrange : checkRange s k = none := (checkRange_eq_none s k).mpr (by omega)
  simp [checkStore, hrange, hi]

/-- Fx33 and Fx55 with I in the font fault with FontWrite (43_index_memory.md R164, R165). -/
theorem exec_store_in_font {i : Instr} {x : Reg} (hstore : i = .ldBVx x ∨ i = .ldMemVx x) (hi : s.i.toNat ≤ 0x04F) :
    exec i s = .fault (.fontWrite s.opcodeAddress (encode i) s.i) := by
  obtain rfl | rfl := hstore
  · simp only [exec, execLdBVx, checkStore_in_font s 3 (by decide) hi, unlessFault, raise]
  · simp only [exec, execLdMemVx, checkStore_in_font s (x.val + 1) (by omega) hi, unlessFault, raise]

/-- Where the fetched opcode decodes, the step runs the instruction past the opcode (40_cycle.md R95). -/
theorem step_of_decode {i : Instr} (hf : s.pc.toNat + 1 ≤ 0xFFF) (hd : decode s.fetch = some i) :
    step s = exec i s.closeLoad.advance := by
  simp [step, State.fetchable, hf, hd]

/-- The address a step's instruction records is where it was fetched (40_cycle.md R92). -/
theorem State.opcodeAddress_advance (s : State) : s.closeLoad.advance.opcodeAddress = s.pc :=
  BitVec.add_sub_cancel s.pc 2#16

end

/-- Settles O5: no host call stores below 0x050, and a store instruction pointed there faults before any effect. -/
theorem fontIsNeverChanged : Obligations.FontIsNeverChanged := by
  refine ⟨fun ts s t a _ h ha => performAll_font_eq h a ha, fun x s hi hf hd => ?_⟩
  obtain ⟨i, hstore, hdec⟩ : ∃ i, (i = .ldBVx x ∨ i = .ldMemVx x) ∧ decode s.fetch = some i := by simpa using hd
  have hstep : step s = .fault (.fontWrite s.pc s.fetch s.i) := by
    rw [step_of_decode hf hdec, exec_store_in_font (s := s.closeLoad.advance) hstore hi, State.opcodeAddress_advance, (decode_sound hdec).1]
    rfl
  exact (performStep_eq_performed s _ _).mpr (.inr ⟨_, hstep, rfl, rfl⟩)

end Sys2Proof.Machine
end

section
/-! Encoding and then decoding gives a well-formed instruction back (30_encoding.md R71, R74, R79). -/

namespace Sys2Proof

/-- Decoding the opcode of a well-formed instruction gives it back: the family selects the row's branch, and each field reads back the
operand packed into it. -/
theorem decode_encode {i : Instr} (hw : i.wellFormed = true) : decode (encode i) = some i := by
  cases i
  case cls | ret => rfl
  case jp nnn | call nnn | ldI nnn =>
    have hn : nnn.toNat ≤ 0xFFF := of_decide_eq_true hw
    simp [decode, encode, fieldFamily_packNNN, fieldNNN_packNNN, hn]
  case seByte x nn | sneByte x nn | ldByte x nn | addByte x nn =>
    simp [decode, encode, fieldFamily_packXB, fieldX_packXB, fieldNN_packXB, nn.isLt]
  case drw x y n =>
    have hn : n < 16 := Nat.lt_succ_of_le (of_decide_eq_true hw)
    simp [decode, encode, fieldFamily_packXYN, fieldX_packXYN, fieldY_packXYN, fieldN_packXYN, hn]
  case seReg | sneReg | ldReg | or | and | xor | addReg | sub | shr | subn =>
    simp [decode, decodeFamily8, encode, fieldFamily_packXYN, fieldX_packXYN, fieldY_packXYN, fieldN_packXYN]
  case skp | sknp =>
    simp [decode, decodeFamilyE, encode, fieldFamily_packXB, fieldX_packXB, lowByte_packXB]
  case ldVxDt | ldVxK | ldDtVx | ldStVx | addIVx | ldFVx | ldBVx | ldMemVx | ldVxMem =>
    simp [decode, decodeFamilyF, encode, fieldFamily_packXB, fieldX_packXB, lowByte_packXB]

end Sys2Proof
end

section
/-! What a fault records, and when a step faults (60_exceptions.md R221; 40_cycle.md R95). -/

namespace Sys2Proof.Machine

section
variable {s t : State} {i : Instr} {f : Fault} {g : Word → Word → Fault}

/-- `g` puts the address and the opcode it is given into the fault it makes, as the spec's `at` and `op` (60_exceptions.md R221). -/
def RecordsSite (g : Word → Word → Fault) : Prop := ∀ pc op, (g pc op).address = pc ∧ (g pc op).opcode = some op

theorem recordsSite_of_checkRange {k : Nat} (h : checkRange s k = some g) : RecordsSite g := by
  obtain ⟨-, hg⟩ := Option.ite_none_right_eq_some.mp h
  cases hg
  exact fun _ _ => ⟨rfl, rfl⟩

theorem recordsSite_of_checkStore {k : Nat} (h : checkStore s k = some g) : RecordsSite g := by
  unfold checkStore at h
  split at h
  next hrange => cases h; exact recordsSite_of_checkRange hrange
  next =>
    obtain ⟨-, hg⟩ := Option.ite_none_right_eq_some.mp h
    cases hg
    exact fun _ _ => ⟨rfl, rfl⟩

theorem fault_of_raise (hg : RecordsSite g) (h : raise g i s = .fault f) : f.address = s.opcodeAddress ∧ f.opcode = some (encode i) := by
  cases h
  exact hg _ _

theorem fault_of_unlessFault {check : Option (Word → Word → Fault)} (hcheck : ∀ {g}, check = some g → RecordsSite g)
    (h : unlessFault check i s t = .fault f) : f.address = s.opcodeAddress ∧ f.opcode = some (encode i) := by
  obtain ⟨g, hg, rfl⟩ := (unlessFault_eq_fault check i s t f).mp h
  exact hcheck hg _ _

theorem fault_of_raiseKeyIndex {x : Reg} (h : raiseKeyIndex x i s = .fault f) :
    f.address = s.opcodeAddress ∧ f.opcode = some (encode i) :=
  fault_of_raise (fun _ _ => ⟨rfl, rfl⟩) h

/-- Every fault of an instruction records where it was fetched and its opcode (60_exceptions.md R221). -/
theorem fault_of_exec (h : exec i s = .fault f) : f.address = s.opcodeAddress ∧ f.opcode = some (encode i) := by
  cases i
  case ret | call =>
    simp only [exec, execRet, execCall] at h
    split at h
    · exact fault_of_raise (fun _ _ => ⟨rfl, rfl⟩) h
    · cases h
  case skp | sknp =>
    simp only [exec, execSkp, execSknp] at h
    split at h
    · exact fault_of_raiseKeyIndex h
    · cases h
  case ldVxK x =>
    simp only [exec, execLdVxK] at h
    split at h <;> cases h
  case drw | ldVxMem => exact fault_of_unlessFault recordsSite_of_checkRange h
  case ldBVx | ldMemVx => exact fault_of_unlessFault recordsSite_of_checkStore h
  all_goals cases h

/-- Every way a step faults: at the fetch, or in the decoded instruction (20_memory.md R59; 40_cycle.md R95). -/
theorem step_eq_fault :
    step s = .fault f ↔
      (0xFFF < s.pc.toNat + 1 ∧ f = .addressOutOfRange s.pc none s.pc) ∨
      (s.pc.toNat + 1 ≤ 0xFFF ∧ ∃ i, decode s.fetch = some i ∧ exec i s.closeLoad.advance = .fault f) := by
  unfold step
  by_cases hf : s.pc.toNat + 1 ≤ 0xFFF
  · cases hd : decode s.fetch <;> simp [State.fetchable, hf, execUnmatched, Nat.not_lt.mpr hf]
  · simp [State.fetchable, hf, fetchFault, Nat.lt_of_not_le hf, eq_comm]

end

/-- Settles O17: an instruction's fault always carries an opcode, so a fault with none is the fetch's. -/
theorem fetchFaultsExactlyPastMemory : Obligations.FetchFaultsExactlyPastMemory := by
  refine ⟨fun s p info => ⟨fun h => ?_, fun ⟨hpc, hp, hinfo⟩ => ?_⟩, fun s hpc => ?_⟩
  · obtain ⟨hpc, hfault⟩ | ⟨-, i, -, hexec⟩ := step_eq_fault.mp h
    · cases hfault
      exact ⟨hpc, rfl, rfl⟩
    · obtain ⟨-, hop⟩ := fault_of_exec hexec
      cases hop
  · exact step_eq_fault.mpr (.inl ⟨hpc, by rw [hp, hinfo]⟩)
  · exact (performStep_eq_performed s _ _).mpr (.inr ⟨_, step_eq_fault.mpr (.inl ⟨hpc, rfl⟩), rfl, rfl⟩)

end Sys2Proof.Machine
end

section
/-! Memory: the canonical form determines the list, and the fetch reads two bytes of it big-endian (20_memory.md R50, R55, R58, R66). -/

namespace Sys2Proof.Machine

/-! ### The canonical form -/

/-- A canonical memory lists exactly the addresses that do not read as their initial byte, each with what it reads as. -/
theorem Memory.wf.mem_iff {font : Font} {m : Memory} (hm : m.wf font) (c : Host.Cell) :
    c ∈ m ↔ m.read font c.1 = c.2 ∧ c.2 ≠ initialByte font c.1 := by
  obtain ⟨hrising, hlisted⟩ := hm
  constructor
  · exact fun hc => ⟨Memory.read_listed font m c hrising hc, (hlisted c hc).2⟩
  · rintro ⟨hread, hne⟩
    by_cases hex : ∃ d ∈ m, d.1 = c.1
    · obtain ⟨d, hd, haddr⟩ := hex
      have hbyte : d.2 = c.2 := by rw [← Memory.read_listed font m d hrising hd, haddr, hread]
      exact Prod.ext haddr hbyte ▸ hd
    · have hunlisted : m.read font c.1 = initialByte font c.1 :=
        Memory.read_unlisted font m c.1 fun d hd haddr => hex ⟨d, hd, haddr⟩
      exact absurd (hread.symm.trans hunlisted) hne

/-- Settles O6: canonical memories that read alike list the same cells, and a strictly rising list is determined by its members. -/
theorem canonicalMemoriesThatReadAlikeAreEqual : Obligations.CanonicalMemoriesThatReadAlikeAreEqual := by
  intro font m m' hm hm' hread
  have : Std.Irrefl fun c d : Host.Cell => c.1 < d.1 := ⟨fun c => Nat.lt_irrefl c.1⟩
  have : Std.Antisymm fun c d : Host.Cell => c.1 < d.1 := ⟨fun c d h h' => absurd h' (Nat.lt_asymm h)⟩
  have hmem : ∀ c, c ∈ m ↔ c ∈ m' := fun c => by rw [hm.mem_iff, hm'.mem_iff, hread]
  obtain ⟨hrising, -⟩ := hm
  obtain ⟨hrising', -⟩ := hm'
  exact hrising.eq_of_mem_iff hrising' hmem

/-! ### The fetch -/

/-- Settles O12: two bytes make a 16-bit word with nothing lost. -/
theorem fetchIsBigEndian : Obligations.FetchIsBigEndian := fun _ => toNat_opcodeOfBytes _ _

/-- Where memory holds an opcode's two bytes at PC, the fetch reads that opcode (20_memory.md R50). -/
theorem State.fetch_eq {s : State} {op : Word} (hhi : s.readByte s.pc.toNat = highByte op)
    (hlo : s.readByte (s.pc.toNat + 1) = lowByte op) : s.fetch = op := by
  rw [State.fetch, hhi, hlo, opcodeOfBytes_bytes]

/-- Settles O14: the fetched opcode is the instruction's, and decoding it gives the instruction back. -/
theorem stepRunsAnEncodedInstruction : Obligations.StepRunsAnEncodedInstruction := by
  intro s i hw hf hhi hlo
  have hd : decode s.fetch = some i := by rw [State.fetch_eq hhi hlo, decode_encode hw]
  exact step_of_decode hf hd

/-- After Fx55 the byte at I + r is Vr, for every register up to Vx (43_index_memory.md R165). -/
theorem readByte_of_ldMemVx {x r : Reg} {s t : State} (h : exec (.ldMemVx x) s = .next t) (hr : r.val ≤ x.val) :
    t.readByte (s.i.toNat + r.val) = s.reg r := by
  obtain ⟨-, -, rfl⟩ := (execLdMemVx_eq_next x s t).mp h
  have hin : s.i.toNat ≤ s.i.toNat + r.val ∧ s.i.toNat + r.val < s.i.toNat + (registersUpTo s x).length := by simp; omega
  rw [State.readByte_storeBytes, dif_pos hin, registersUpTo_getElem]
  simp

/-- Settles O52: the fetch's two bytes are the two registers Fx55 stored there. -/
theorem storedBytesAreFetched : Obligations.StoredBytesAreFetched := by
  intro x k k' p s t h hk' hx hp
  have hhi : t.readByte p.toNat = s.reg k := by rw [hp, readByte_of_ldMemVx h (by omega)]
  have hlo : t.readByte (p.toNat + 1) = s.reg k' := by rw [hp, Nat.add_assoc, ← hk', readByte_of_ldMemVx h hx]
  calc ({ t with pc := p } : State).fetch.toNat
    _ = (t.readByte p.toNat).toNat * 256 + (t.readByte (p.toNat + 1)).toNat := fetchIsBigEndian { t with pc := p }
    _ = (s.reg k).toNat * 256 + (s.reg k').toNat := by rw [hhi, hlo]

end Sys2Proof.Machine
end

section
/-! The decoder against the opcode table, and the opcodes that no row matches (30_encoding.md R73-R76, R79). -/

namespace Sys2Proof

/-- Settles O7: each row's branch of the decoder reads back the fields that the encoder packed. -/
theorem decodeInvertsEncode : Obligations.DecodeInvertsEncode := fun _ => decode_encode

/-- Settles O8: each branch of the decoder fixes the literal digits and keeps the other bits as fields. -/
theorem encodeInvertsDecode : Obligations.EncodeInvertsDecode := fun _ _ => decode_sound

/-- Settles O11: the decoder evaluates to the answer on each word. -/
theorem sampleWordsDecode : Obligations.SampleWordsDecode := by
  unfold Obligations.SampleWordsDecode
  decide

/-! ### The unmatched opcodes -/

section
variable {op : Word}

theorem decodeFamily0_eq_none : decodeFamily0 op = none ↔ op ≠ 0x00E0#16 ∧ op ≠ 0x00EE#16 := by
  unfold decodeFamily0
  split
  next h => simp [h]
  next h => simp [h]

theorem decodeFamily8_eq_none : decodeFamily8 op = none ↔ 8 ≤ fieldN op := by
  unfold decodeFamily8
  split <;> grind

theorem decodeFamilyE_eq_none : decodeFamilyE op = none ↔ op.toNat % 256 ∉ [0x9E, 0xA1] := by
  unfold decodeFamilyE
  split <;> simp_all

theorem decodeFamilyF_eq_none :
    decodeFamilyF op = none ↔ op.toNat % 256 ∉ [0x07, 0x0A, 0x15, 0x18, 0x1E, 0x29, 0x33, 0x55, 0x65] := by
  unfold decodeFamilyF
  split <;> simp_all

/-- The unmatched opcodes in the terms of the decoder's fields: the family selects the branch, and each branch says when it gives nothing
(30_encoding.md R73, R76). -/
theorem decode_eq_none_iff :
    decode op = none ↔
      (fieldFamily op = 0x0 ∧ op ≠ 0x00E0#16 ∧ op ≠ 0x00EE#16) ∨
      (fieldFamily op = 0x5 ∧ fieldN op ≠ 0) ∨
      (fieldFamily op = 0x8 ∧ 8 ≤ fieldN op) ∨
      (fieldFamily op = 0x9 ∧ fieldN op ≠ 0) ∨
      fieldFamily op = 0xB ∨ fieldFamily op = 0xC ∨
      (fieldFamily op = 0xE ∧ op.toNat % 256 ∉ [0x9E, 0xA1]) ∨
      (fieldFamily op = 0xF ∧ op.toNat % 256 ∉ [0x07, 0x0A, 0x15, 0x18, 0x1E, 0x29, 0x33, 0x55, 0x65]) := by
  unfold decode
  split
  case h_1 hf => simp [hf, decodeFamily0_eq_none]
  case h_6 hf | h_10 hf => simp [hf]
  case h_9 hf => simp [hf, decodeFamily8_eq_none]
  case h_13 hf => simp [hf, decodeFamilyE_eq_none]
  case h_14 hf => simp [hf, decodeFamilyF_eq_none]
  case h_15 =>
    have : fieldFamily op < 16 := by unfold fieldFamily; omega
    grind
  all_goals simp [*]

end

/-- Settles O10: the statement is `decode_eq_none_iff` with the fields written out. -/
theorem unmatchedOpcodesAreExactlyThese : Obligations.UnmatchedOpcodesAreExactlyThese := fun _ => decode_eq_none_iff

/-! ### The opcode table -/

section
variable {op : Word} {i : Instr} {r r' : OpcodeRow} {name : String} {bits : Word}

/-- What a mask of the table keeps of an opcode: the family, and the `k` lowest bits (30_encoding.md R74). -/
theorem toNat_and_mask (op : Word) {k : Nat} (hk : k ≤ 12) :
    (op &&& BitVec.ofNat 16 (0xF000 + (2 ^ k - 1))).toNat = fieldFamily op * 0x1000 + op.toNat % 2 ^ k := by
  have hmask : 2 ^ k - 1 < 2 ^ 12 := (Nat.sub_lt (Nat.two_pow_pos k) one_pos).trans_le (Nat.pow_le_pow_right (by decide) hk)
  have hhigh : (op.toNat &&& (0xF000 + (2 ^ k - 1))) / 2 ^ 12 = fieldFamily op := by
    have := op.isLt
    rw [Nat.and_div_two_pow, show (0xF000 + (2 ^ k - 1)) / 2 ^ 12 = 2 ^ 4 - 1 by omega, Nat.and_two_pow_sub_one_eq_mod, fieldFamily]
    omega
  have hlow : (op.toNat &&& (0xF000 + (2 ^ k - 1))) % 2 ^ 12 = op.toNat % 2 ^ k := by
    rw [Nat.and_mod_two_pow, show (0xF000 + (2 ^ k - 1)) % 2 ^ 12 = 2 ^ k - 1 by omega, Nat.and_two_pow_sub_one_eq_mod,
      Nat.mod_mod_of_dvd _ (Nat.pow_dvd_pow 2 hk)]
  rw [BitVec.toNat_and, BitVec.toNat_ofNat, Nat.mod_eq_of_lt (by omega), ← hhigh, ← hlow]
  omega

/-- A row with such a mask selects an opcode by its family and its `k` lowest bits (30_encoding.md R73, R74). -/
theorem selects_iff (k : Nat) (hk : k ≤ 12) :
    (OpcodeRow.mk name bits (BitVec.ofNat 16 (0xF000 + (2 ^ k - 1)))).selects op = true ↔
      fieldFamily op = bits.toNat / 0x1000 ∧ op.toNat % 2 ^ k = bits.toNat % 0x1000 := by
  have hlow : op.toNat % 2 ^ k < 0x1000 := (Nat.mod_lt _ (Nat.two_pow_pos k)).trans_le (Nat.pow_le_pow_right (by decide) hk)
  rw [OpcodeRow.selects, beq_iff_eq, ← BitVec.toNat_inj, toNat_and_mask op hk]
  dsimp only
  omega

theorem selects_iff_family :
    (OpcodeRow.mk name bits 0xF000#16).selects op = true ↔ fieldFamily op = bits.toNat / 0x1000 ∧ bits.toNat % 0x1000 = 0 :=
  (selects_iff 0 (by decide)).trans (by rw [pow_zero, Nat.mod_one, eq_comm (a := 0)])

theorem selects_iff_family_and_nibble :
    (OpcodeRow.mk name bits 0xF00F#16).selects op = true ↔ fieldFamily op = bits.toNat / 0x1000 ∧ fieldN op = bits.toNat % 0x1000 :=
  selects_iff 4 (by decide)

theorem selects_iff_family_and_byte :
    (OpcodeRow.mk name bits 0xF0FF#16).selects op = true ↔ fieldFamily op = bits.toNat / 0x1000 ∧ op.toNat % 0x100 = bits.toNat % 0x1000 :=
  selects_iff 8 (by decide)

theorem selects_iff_eq : (OpcodeRow.mk name bits 0xFFFF#16).selects op = true ↔ op = bits := by
  rw [OpcodeRow.selects, beq_iff_eq]
  exact iff_of_eq (congrArg (· = bits) BitVec.and_allOnes)

/-- The row an instruction stands for, found in the table by its mnemonic, selects its opcode (30_encoding.md R74). -/
theorem row_selects_encode (hw : i.wellFormed = true) :
    ∃ r, opcodeTable.find? (fun r => r.mnemonic == mnemonicOf i) = some r ∧ r.selects (encode i) = true := by
  cases i
  case cls | ret => exact ⟨_, rfl, rfl⟩
  case jp nnn | call nnn | ldI nnn =>
    exact ⟨_, rfl, selects_iff_family.mpr ⟨fieldFamily_packNNN _ nnn (by decide) (of_decide_eq_true hw), rfl⟩⟩
  case seByte x nn | sneByte x nn | ldByte x nn | addByte x nn =>
    exact ⟨_, rfl, selects_iff_family.mpr ⟨fieldFamily_packXB _ x _ (by decide) nn.isLt, rfl⟩⟩
  case drw x y n =>
    exact ⟨_, rfl, selects_iff_family.mpr ⟨fieldFamily_packXYN _ x y n (by decide) (Nat.lt_succ_of_le (of_decide_eq_true hw)), rfl⟩⟩
  case seReg x y | sneReg x y | ldReg x y | or x y | and x y | xor x y | addReg x y | sub x y | shr x y | subn x y =>
    exact ⟨_, rfl, selects_iff_family_and_nibble.mpr
      ⟨fieldFamily_packXYN _ x y _ (by decide) (by decide), fieldN_packXYN _ x y _ (by decide) (by decide)⟩⟩
  case skp x | sknp x | ldVxDt x | ldVxK x | ldDtVx x | ldStVx x | addIVx x | ldFVx x | ldBVx x | ldMemVx x | ldVxMem x =>
    exact ⟨_, rfl, selects_iff_family_and_byte.mpr
      ⟨fieldFamily_packXB _ x _ (by decide) (by decide), lowByte_packXB _ x _ (by decide) (by decide)⟩⟩

/-- No row selects an unmatched opcode: each of the eight spaces lies outside every row (30_encoding.md R76). -/
theorem not_selects_of_decode_eq_none (h : decode op = none) : ∀ r ∈ opcodeTable, ¬ r.selects op = true := by
  have hcls : op ≠ 0x00E0#16 := by rintro rfl; cases h
  have hret : op ≠ 0x00EE#16 := by rintro rfl; cases h
  simp only [opcodeTable, List.forall_mem_cons, selects_iff_family, selects_iff_family_and_nibble, selects_iff_family_and_byte,
    selects_iff_eq]
  obtain h0 | h5 | ⟨h8, hn⟩ | h9 | hB | hC | ⟨hE, hnn⟩ | ⟨hF, hnn⟩ := decode_eq_none_iff.mp h
  case inr.inr.inl =>
    simp [h8, hcls, hret]
    omega
  all_goals simp_all

/-- Two rows are told apart where their masks share a bit to which their match columns give different values (30_encoding.md R75). -/
theorem opcodeTable_pairwise_disjoint : opcodeTable.Pairwise fun r r' => r.bits &&& r'.mask ≠ r'.bits &&& r.mask := by
  decide

theorem bits_and_mask_of_selects (h : r.selects op = true) (h' : r'.selects op = true) : r.bits &&& r'.mask = r'.bits &&& r.mask := by
  have h : op &&& r.mask = r.bits := eq_of_beq h
  have h' : op &&& r'.mask = r'.bits := eq_of_beq h'
  rw [← h, ← h', BitVec.and_assoc, BitVec.and_assoc, BitVec.and_comm r.mask]

/-- No opcode matches two rows (30_encoding.md R75). -/
theorem length_filter_selects_le_one (op : Word) : (opcodeTable.filter fun r => r.selects op).length ≤ 1 := by
  by_contra hlen
  have hne := List.pairwise_iff_getElem.mp (opcodeTable_pairwise_disjoint.filter fun r => r.selects op) 0 1 (by omega) (by omega) one_pos
  have hsel : ∀ r ∈ opcodeTable.filter fun r => r.selects op, r.selects op = true := fun _ hr => (List.mem_filter.mp hr).2
  exact hne (bits_and_mask_of_selects (hsel _ (List.getElem_mem _)) (hsel _ (List.getElem_mem _)))

/-- A row that selects an opcode is the first one that does. -/
theorem find?_selects_eq_some (hr : r ∈ opcodeTable) (h : r.selects op = true) :
    (opcodeTable.find? fun r => r.selects op) = some r := by
  have hmem : r ∈ opcodeTable.filter fun r => r.selects op := List.mem_filter.mpr ⟨hr, h⟩
  obtain ⟨r', hrows⟩ := List.length_eq_one_iff.mp
    (Nat.le_antisymm (length_filter_selects_le_one op) (List.length_pos_of_mem hmem))
  obtain rfl : r = r' := by simpa [hrows] using hmem
  rw [← List.head?_filter, hrows]
  rfl

end

/-- Settles O9: a decoded instruction's row selects the opcode and no other row does, and no row selects an unmatched opcode. -/
theorem decoderFollowsTheOpcodeTable : Obligations.DecoderFollowsTheOpcodeTable := by
  intro op
  refine ⟨?_, length_filter_selects_le_one op⟩
  cases hd : decode op with
  | none => rw [List.find?_eq_none.mpr (not_selects_of_decode_eq_none hd)]; rfl
  | some i =>
    obtain ⟨rfl, hw⟩ := decode_sound hd
    obtain ⟨r, hfind, hsel⟩ := row_selects_encode hw
    have hname : r.mnemonic = mnemonicOf i := by simpa using List.find?_some hfind
    rw [find?_selects_eq_some (List.mem_of_find?_eq_some hfind) hsel, Option.map_some, Option.map_some, hname]

end Sys2Proof
end

section
/-! The cycle (40_cycle.md R90-R97): what a step answers the host, why a wait changes nothing, and that the next step runs a placed opcode. -/

namespace Sys2Proof.Machine

/-! ### The outcome of a step -/

section
variable {s t : State} {i : Instr}

/-- A waiting instruction is an Fx0A with every key up (45_keys_timers.md R204). -/
theorem waitsForKey_eq_true : waitsForKey i s = true ↔ (∃ x, i = .ldVxK x) ∧ ∀ k, s.key k = false := by
  cases i
  case ldVxK x => simp [waitsForKey, lowestKeyDown_eq_none]
  all_goals simp [waitsForKey]

theorem completion_of_decode (hd : decode s.fetch = some i) :
    completion s = if waitsForKey i s then .WaitingForKey else .Continue := by
  rw [completion, hd]

theorem completion_of_unmatched (hd : decode s.fetch = none) : completion s = .Unimplemented s.fetch s.pc := by
  rw [completion, hd]

/-- The outcome of a step that does not fault is WaitingForKey exactly for an Fx0A with every key up (40_cycle.md R90). -/
theorem completion_eq_waitingForKey :
    completion s = .WaitingForKey ↔ ∃ x, decode s.fetch = some (.ldVxK x) ∧ ∀ k, s.key k = false := by
  cases hd : decode s.fetch with
  | none => simp [completion_of_unmatched hd]
  | some i => simp [completion_of_decode hd, waitsForKey_eq_true]

theorem completion_ne_fault (s : State) (f : Fault) : completion s ≠ .Fault f := by
  cases hd : decode s.fetch with
  | none => simp [completion_of_unmatched hd]
  | some i => rw [completion_of_decode hd]; split <;> simp

/-- An instruction that goes on, and is no Fx0A with every key up, completes with Continue (40_cycle.md R90). -/
theorem completion_eq_continue (hd : decode s.fetch = some i) (hkey : ∀ x, i = .ldVxK x → ∃ k, s.key k = true) :
    completion s = .Continue := by
  have hwait : ¬ waitsForKey i s = true := by
    rw [waitsForKey_eq_true]
    rintro ⟨⟨x, rfl⟩, hup⟩
    obtain ⟨k, hdown⟩ := hkey x rfl
    simp [hup k] at hdown
  rw [completion_of_decode hd, if_neg hwait]

/-- Where the fetched opcode is unmatched, the step only advances (40_cycle.md R97). -/
theorem step_of_unmatched (hf : s.pc.toNat + 1 ≤ 0xFFF) (hd : decode s.fetch = none) : step s = .next s.closeLoad.advance :=
  (step_eq_next s _).mpr ⟨hf, .inr ⟨hd, rfl⟩⟩

/-! ### Steps that change nothing -/

/-- Rewinding undoes the fetch advance (40_cycle.md R92, R96). -/
theorem State.rewind_advance (s : State) : s.advance.rewind = s := by
  simp [State.rewind, State.opcodeAddress, State.advance]

/-- A step that goes on and waits for a key is back where it was (45_keys_timers.md R204). -/
theorem eq_closeLoad_of_waiting (h : step s = .next t) (hwait : completion s = .WaitingForKey) : t = s.closeLoad := by
  obtain ⟨x, hd, hup⟩ := completion_eq_waitingForKey.mp hwait
  obtain ⟨-, ⟨i, hi, hexec⟩ | ⟨hnone, -⟩⟩ := (step_eq_next s t).mp h
  · obtain rfl : i = .ldVxK x := Option.some.inj (hi.symm.trans hd)
    have hrewind : exec (.ldVxK x) s.closeLoad.advance = .next s.closeLoad.advance.rewind := exec_of_effect (.ldVxKWaits x hup)
    rw [hexec, State.rewind_advance] at hrewind
    exact Host.Outcome.next.inj hrewind
  · simp [hd] at hnone

end

/-! ### An opcode placed where the next step fetches (log 8) -/

/-- The opcode of a table word, laid out as two bytes, decodes as it does when it is fetched (20_memory.md R50). -/
theorem decodeTableWord_eq (nbits w : Nat) : decodeTableWord nbits w = decode (tableOpcode nbits w) := by
  simp only [decodeTableWord, decodeBytes, opcodeOfBytes_bytes]
  cases decode (tableOpcode nbits w) <;> rfl

section
variable (s : State) (op : Word)

/-- Both bytes at the place lie inside memory, so a step can fetch there (20_memory.md R59). -/
theorem placeAddress_fetchable : (placeAddress s).toNat + 1 ≤ 0xFFF := by
  rw [placeAddress]
  split
  next hpc => exact hpc.2
  next => decide

@[simp] theorem placeOpcode_pc : (placeOpcode s op).pc = placeAddress s := rfl

/-- Placing an opcode writes its two bytes and no other. -/
theorem readByte_placeOpcode (a : Nat) :
    (placeOpcode s op).readByte a =
      if a = (placeAddress s).toNat then highByte op
      else if a = (placeAddress s).toNat + 1 then lowByte op
      else s.readByte a := by
  rw [placeOpcode, State.readByte_storeBytes]
  by_cases hhi : a = (placeAddress s).toNat
  · simp [hhi]
  · by_cases hlo : a = (placeAddress s).toNat + 1
    · simp [hlo]
    · have hout : ¬((placeAddress s).toNat ≤ a ∧ a < (placeAddress s).toNat + 2) := by omega
      rw [if_neg hhi, if_neg hlo]
      exact dif_neg hout

/-- A placed opcode is what the next step fetches. -/
theorem fetch_placeOpcode : (placeOpcode s op).fetch = op :=
  State.fetch_eq (by simp [readByte_placeOpcode]) (by simp [readByte_placeOpcode])

end

/-! ### The statements about the cycle -/

/-- Settles O15: the fetch at the placed opcode reads it back, inside memory, and so the step runs what it decodes to. -/
theorem placedWordRunsNext : Obligations.PlacedWordRunsNext := by
  intro s w i hw
  rw [decodeTableWord_eq] at hw
  refine ⟨rfl, rfl, fun a hhi hlo => ?_, ?_⟩
  · rw [State.withFetchWord, readByte_placeOpcode, if_neg hhi, if_neg hlo]
  · exact step_of_decode (placeAddress_fetchable s) (by rw [State.withFetchWord, fetch_placeOpcode, hw])

/-- Settles O18: a fault's reply carries the state with LOAD_OPEN closed, and a wait rewinds the fetch advance. -/
theorem faultingAndWaitingStepsChangeNothing : Obligations.FaultingAndWaitingStepsChangeNothing := by
  intro s t o h ho
  obtain ⟨hstep, hreply⟩ | ⟨f, -, ht, -⟩ := (performStep_eq_performed s t _).mp h
  · obtain rfl : o = completion s := Reply.outcome.inj hreply
    obtain hwait | ⟨f, hfault⟩ := ho
    · exact eq_closeLoad_of_waiting hstep hwait
    · exact absurd hfault (completion_ne_fault s f)
  · exact ht

/-- Settles O13: `step_of_decode`, whose outcome is Continue where the instruction does not wait for a key. -/
theorem stepRunsTheDecodedInstruction : Obligations.StepRunsTheDecodedInstruction := by
  refine ⟨fun s i hf hd => step_of_decode hf hd, fun s i t hf hd hexec hkey => ?_⟩
  have hstep : step s = .next t := (step_of_decode hf hd).trans hexec
  exact (performStep_eq_performed s t _).mpr (.inl ⟨hstep, by rw [completion_eq_continue hd hkey]⟩)

/-- Settles O16: the step only advances, and it completes with Unimplemented. -/
theorem unmatchedOpcodeIsANoOp : Obligations.UnmatchedOpcodeIsANoOp := fun s hf hd =>
  have hstep := step_of_unmatched hf hd
  ⟨hstep, (performStep_eq_performed s _ _).mpr (.inl ⟨hstep, by rw [completion_of_unmatched hd]⟩)⟩

end Sys2Proof.Machine
end

section
/-! Control flow: returns, jumps, calls and skips, each as one equation, and a run of calls (41_control_flow.md R111-R117). -/

namespace Sys2Proof.Machine

section
variable {s : State} {i : Instr}

/-! ### The equations of control transfer -/

/-- RET takes the last return address off the stack and goes there (41_control_flow.md R111). -/
theorem exec_ret_of_top {below : List Word} {a : Word} (top : s.stack = below ++ [a]) :
    exec .ret s = .next { s with pc := a, stack := below } := by
  have hlast : s.stack.getLast? = some a := by simp [top]
  have hrest : s.dropTop = { s with stack := below } := by simp [State.dropTop, top]
  rw [exec_of_effect (.ret a hlast), hrest]
  rfl

/-- RET faults on the empty stack (41_control_flow.md R111). -/
theorem exec_ret_of_empty (empty : s.stack = []) : exec .ret s = .fault (.stackUnderflow s.opcodeAddress (encode .ret)) := by
  simp [exec, execRet, empty, raise]

/-- CALL pushes PC, which the fetch advance has moved past it, below depth 16 (41_control_flow.md R113). -/
theorem exec_call_of_room (nnn : Word) (room : s.stack.length < 16) :
    exec (.call nnn) s = .next { s with pc := nnn, stack := s.stack ++ [s.pc] } :=
  exec_of_effect (.call nnn room)

/-- CALL faults on the full stack (41_control_flow.md R113). -/
theorem exec_call_of_full (nnn : Word) (full : 16 ≤ s.stack.length) :
    exec (.call nnn) s = .fault (.stackOverflow s.opcodeAddress (encode (.call nnn))) := by
  simp [exec, execCall, State.stackFull, full, raise]

/-- An instruction that skips on a test changes PC only, by 2 exactly where the tested comparison holds (41_control_flow.md R110). -/
theorem exec_of_skipIf {c : Bool} {p : Prop} [Decidable p] (h : Effect s i (s.skipIf c)) (test : c = true ↔ p) :
    exec i s = .next { s with pc := if p then s.pc + 2#16 else s.pc } := by
  rw [exec_of_effect h, State.skipIf_eq, if_congr test rfl rfl]

/-! ### A CALL of its own address -/

variable (hf : s.pc.toNat + 1 ≤ 0xFFF) (hd : decode s.fetch = some (.call s.pc))
include hf hd

/-- With room on the stack, a CALL of its own address pushes its return address and stays where it is. -/
theorem step_selfCall_of_room (room : s.stack.length < 16) :
    step s = .next { s with stack := s.stack ++ [s.pc + 2#16], loadOpen := false } :=
  (step_of_decode hf hd).trans (exec_call_of_room s.pc room)

/-- On the full stack it faults at its own address, with its own opcode (60_exceptions.md R221). -/
theorem step_selfCall_of_full (full : 16 ≤ s.stack.length) : step s = .fault (.stackOverflow s.pc s.fetch) := by
  rw [step_of_decode hf hd, exec_call_of_full (s := s.closeLoad.advance) s.pc full, State.opcodeAddress_advance, (decode_sound hd).1]

/-- As many steps as the stack has room for push the return address each time and change nothing else. -/
theorem run_selfCall_of_room {k : Nat} (room : s.stack.length + k < 16) :
    core.run (k + 1) s = .next { s with stack := s.stack ++ List.replicate (k + 1) (s.pc + 2#16), loadOpen := false } := by
  induction k generalizing s with
  | zero => exact core_run_succ_next 0 s _ (step_selfCall_of_room hf hd room)
  | succ k ih =>
    have hstep := step_selfCall_of_room hf hd (by omega)
    have hrest := ih (s := { s with stack := s.stack ++ [s.pc + 2#16], loadOpen := false }) hf hd (by simp; omega)
    rw [core_run_succ_next _ _ _ hstep, hrest, List.append_assoc]
    rfl

/-- The step after the stack has filled faults. -/
theorem run_selfCall_overflows {k : Nat} (full : s.stack.length + k = 16) :
    core.run (k + 1) s = .fault (.stackOverflow s.pc s.fetch) := by
  induction k generalizing s with
  | zero => exact core_run_succ_fault 0 s _ (step_selfCall_of_full hf hd (Nat.le_of_eq full.symm))
  | succ k ih =>
    have hstep := step_selfCall_of_room hf hd (by omega)
    rw [core_run_succ_next _ _ _ hstep]
    exact ih (s := { s with stack := s.stack ++ [s.pc + 2#16], loadOpen := false }) hf hd (by simp; omega)

end

/-! ### The statements about control flow -/

/-- Settles O49: RET takes off the address that CALL pushed, which was PC. -/
theorem returnUndoesCall : Obligations.ReturnUndoesCall := by
  intro nnn s t p h
  obtain ⟨-, rfl⟩ := (execCall_eq_next nnn s t).mp h
  exact exec_ret_of_top rfl

/-- Settles O50: the empty stack has room for 16 return addresses. -/
theorem sixteenNestedCallsThenOverflow : Obligations.SixteenNestedCallsThenOverflow := by
  refine fun s hs hf hd => ⟨fun k hpos hk => ?_, run_selfCall_overflows hf hd (by simp [hs])⟩
  obtain ⟨k, rfl⟩ := Nat.exists_eq_add_of_le' hpos
  rw [run_selfCall_of_room hf hd (by simp [hs]; omega), hs, List.nil_append]

/-- Settles O31: RET on a stack with a last entry, and on the empty one. -/
theorem returnPopsOrUnderflows : Obligations.ReturnPopsOrUnderflows :=
  ⟨fun _ _ _ => exec_ret_of_top, fun _ => exec_ret_of_empty⟩

/-- Settles O32: JP has no check, and PC is all it sets. -/
theorem jumpSetsPc : Obligations.JumpSetsPc := fun nnn _ => exec_of_effect (.jp nnn)

/-- Settles O33: CALL below depth 16, and at it. -/
theorem callPushesOrOverflows : Obligations.CallPushesOrOverflows :=
  ⟨fun nnn _ => exec_call_of_room nnn, fun nnn _ full => exec_call_of_full nnn (Nat.le_of_eq full.symm)⟩

/-- Settles O34: each of the four skips on the comparison that its test decides. -/
theorem comparisonsSkip : Obligations.ComparisonsSkip := fun x y nn _ =>
  ⟨exec_of_skipIf (.seByte x nn) beq_iff_eq, exec_of_skipIf (.sneByte x nn) bne_iff_ne,
    exec_of_skipIf (.seReg x y) beq_iff_eq, exec_of_skipIf (.sneReg x y) bne_iff_ne⟩

end Sys2Proof.Machine
end

section
/-! Register loads and the ALU: the arithmetic of the flag functions, and what an instruction that writes one register, or a register and
then the flag, leaves behind (42_register_alu.md R130-R143). -/

namespace Sys2Proof.Machine

/-! ### Results and flags as numbers -/

section
variable (a b : Byte)

@[simp] theorem toNat_sumByte : (sumByte a b).toNat = (a.toNat + b.toNat) % 256 := by simp [sumByte]

@[simp] theorem toNat_differenceByte : (differenceByte a b).toNat = (a.toNat + 256 - b.toNat) % 256 := by simp [differenceByte]

@[simp] theorem toNat_halfByte : (halfByte a).toNat = a.toNat / 2 := by
  have := a.isLt
  simp [halfByte]; omega

@[simp] theorem toNat_shiftedOutFlag : (shiftedOutFlag a).toNat = a.toNat % 2 := by simp [shiftedOutFlag]; omega

theorem carryFlag_eq_ite : carryFlag a b = if 255 < a.toNat + b.toNat then 1#8 else 0#8 := flagByte_eq_ite _ _ decide_eq_true_iff

theorem notBorrowFlag_eq_ite : notBorrowFlag a b = if a.toNat ≥ b.toNat then 1#8 else 0#8 := flagByte_eq_ite _ _ decide_eq_true_iff

/-- The carry and the sum byte are the two digits, to the base 256, of the unbounded sum (42_register_alu.md R137). -/
theorem carryFlag_sumByte : 256 * (carryFlag a b).toNat + (sumByte a b).toNat = a.toNat + b.toNat := by
  have ha := a.isLt
  have hb := b.isLt
  rw [toNat_sumByte, carryFlag_eq_ite]
  split
  case isTrue => simp; omega
  case isFalse => simp; omega

/-- The not-borrow is the ninth bit of the difference with 256 lent to it (42_register_alu.md R138, R140). -/
theorem differenceByte_notBorrowFlag : (differenceByte a b).toNat + b.toNat + 256 * (notBorrowFlag a b).toNat = a.toNat + 256 := by
  have ha := a.isLt
  have hb := b.isLt
  rw [toNat_differenceByte, notBorrowFlag_eq_ite]
  split
  case isTrue => simp; omega
  case isFalse => simp; omega

end

/-! ### One register written, or one register and then the flag -/

section
variable {s : State} {i : Instr} {x : Reg}

/-- An instruction that writes one register changes nothing else (42_register_alu.md R131-R136). -/
theorem exec_of_setReg {b : Byte} (h : Effect s i (s.setReg x b)) :
    ∃ t, exec i s = .next t ∧ t = { s with v := t.v } ∧ ∀ r, t.reg r = if r = x then b else s.reg r :=
  ⟨_, exec_of_effect h, rfl, fun r => State.reg_setReg s x r b⟩

/-- An instruction that writes a result and then the flag: the flag stays in VF, the result in Vx unless the flag replaced it, and nothing
else changes (42_register_alu.md R130). -/
theorem exec_of_setResultAndFlag {b f : Byte} (h : Effect s i (s.setResultAndFlag x b f)) :
    ∃ t, exec i s = .next t ∧ t = { s with v := t.v } ∧ (∀ r, r ≠ x → r ≠ 15 → t.reg r = s.reg r) ∧
      (x ≠ 15 → t.reg x = b) ∧ t.reg 15 = f := by
  refine ⟨_, exec_of_effect h, rfl, fun r hx hf => ?_, fun hx => ?_, ?_⟩
  · rw [State.reg_setResultAndFlag, if_neg hf, if_neg hx]
  · rw [State.reg_setResultAndFlag, if_neg hx, if_pos rfl]
  · rw [State.reg_setResultAndFlag, if_pos rfl]

/-- A subtraction `a - b`, in whichever order the instruction takes its operands (42_register_alu.md R138, R140). -/
theorem exec_of_subtraction {a b : Byte} (h : Effect s i (s.setResultAndFlag x (differenceByte a b) (notBorrowFlag a b))) :
    ∃ t, exec i s = .next t ∧ t = { s with v := t.v } ∧ (∀ r, r ≠ x → r ≠ 15 → t.reg r = s.reg r) ∧
      (x ≠ 15 → (t.reg x).toNat = (a.toNat + 256 - b.toNat) % 256) ∧
      t.reg 15 = (if a.toNat ≥ b.toNat then 1#8 else 0#8) ∧
      (x ≠ 15 → (t.reg x).toNat + b.toNat + 256 * (t.reg 15).toNat = a.toNat + 256) := by
  obtain ⟨t, hnext, hframe, hothers, hresult, hflag⟩ := exec_of_setResultAndFlag h
  refine ⟨t, hnext, hframe, hothers, fun hx => ?_, hflag.trans (notBorrowFlag_eq_ite a b), fun hx => ?_⟩
  · rw [hresult hx, toNat_differenceByte]
  · rw [hresult hx, hflag, differenceByte_notBorrowFlag]

end

/-! ### The statements about the loads and the ALU -/

/-- Settles O36: the carry and the sum byte make up the unbounded sum. -/
theorem addWithCarry : Obligations.AddWithCarry := by
  intro x y s
  obtain ⟨t, hnext, hframe, hothers, hresult, hflag⟩ := exec_of_setResultAndFlag (.addReg (s := s) x y)
  refine ⟨t, hnext, hframe, hothers, fun hx => ?_, hflag.trans (carryFlag_eq_ite _ _), fun hx => ?_⟩
  · rw [hresult hx, toNat_sumByte]
  · rw [hresult hx, hflag, carryFlag_sumByte]

/-- Settles O37: the two subtractions differ in the order of their operands only. -/
theorem subtractWithNotBorrow : Obligations.SubtractWithNotBorrow := fun x y _ =>
  ⟨exec_of_subtraction (.sub x y), exec_of_subtraction (.subn x y)⟩

/-- Settles O35: each of the six writes one register. -/
theorem loadsAndLogicWriteOneRegister : Obligations.LoadsAndLogicWriteOneRegister := by
  intro x y nn s
  refine ⟨exec_of_setReg (.ldByte x nn), ?_, exec_of_setReg (.ldReg x y), exec_of_setReg (.or x y), exec_of_setReg (.and x y),
    exec_of_setReg (.xor x y)⟩
  obtain ⟨t, hnext, hframe, hregs⟩ := exec_of_setReg (.addByte (s := s) x nn)
  refine ⟨t, hnext, hframe, fun r hr => ?_, ?_⟩
  · rw [hregs, if_neg hr]
  · rw [hregs, if_pos rfl, toNat_sumByte]

/-- Settles O38: the dispatch of SHR drops y, so its result cannot depend on it. -/
theorem shiftRightByOne : Obligations.ShiftRightByOne := by
  intro x y s
  obtain ⟨t, hnext, hframe, hothers, hresult, hflag⟩ := exec_of_setResultAndFlag (.shr (s := s) x y)
  refine ⟨t, hnext, hframe, hothers, fun hx => ?_, ?_, fun _ => rfl⟩
  · rw [hresult hx, toNat_halfByte]
  · rw [hflag, toNat_shiftedOutFlag]

end Sys2Proof.Machine
end

section
/-! The index register and the memory instructions: where their checks fail, what a store and a load of a range from I up leave behind, and
the three writers of I (43_index_memory.md R160-R166). -/

namespace Sys2Proof.Machine

section
variable {s t : State} {k : Nat}

/-! ### A range past 0xFFF -/

/-- A range whose last address is I + k fails its check past 0xFFF, at that address (20_memory.md R60). -/
theorem checkRange_past_memory (hpast : 0xFFF < s.i.toNat + k) :
    checkRange s (k + 1) = some fun pc op => .addressOutOfRange pc (some op) (BitVec.ofNat 16 (s.i.toNat + k)) :=
  if_pos ⟨Nat.succ_pos k, hpast⟩

/-- A store is checked for its range first (20_memory.md R61). -/
theorem checkStore_past_memory (hpast : 0xFFF < s.i.toNat + k) :
    checkStore s (k + 1) = some fun pc op => .addressOutOfRange pc (some op) (BitVec.ofNat 16 (s.i.toNat + k)) := by
  rw [checkStore, checkRange_past_memory hpast]

/-- A check that finds a fault ends the instruction in it, at its own address and with its own opcode (60_exceptions.md R221). -/
theorem unlessFault_of_check {check : Option (Word → Word → Fault)} {g : Word → Word → Fault} (i : Instr) (h : check = some g) :
    unlessFault check i s t = .fault (g (s.pc - 2#16) (encode i)) :=
  (unlessFault_eq_fault check i s t _).mpr ⟨g, h, rfl⟩

/-! ### What the writers write -/

/-- After Fx33 the bytes at I, I + 1, I + 2 are the hundreds, tens and ones digit of Vx (43_index_memory.md R164). -/
theorem digits_of_ldBVx {x : Reg} (h : exec (.ldBVx x) s = .next t) :
    (t.readByte s.i.toNat).toNat = (s.reg x).toNat / 100 ∧
      (t.readByte (s.i.toNat + 1)).toNat = (s.reg x).toNat / 10 % 10 ∧
      (t.readByte (s.i.toNat + 2)).toNat = (s.reg x).toNat % 10 := by
  obtain ⟨-, -, rfl⟩ := (execLdBVx_eq_next x s t).mp h
  have := (s.reg x).isLt
  simp [State.readByte_storeBytes, decimalDigits]
  omega

/-- The overflow of Fx1E is the unbounded sum's (43_index_memory.md R162). -/
theorem indexOverflowFlag_eq_ite (i : Word) (a : Byte) : indexOverflowFlag i a = if 0xFFF < i.toNat + a.toNat then 1#8 else 0#8 :=
  flagByte_eq_ite _ _ decide_eq_true_iff

end

/-! ### The statements about the index register and memory -/

/-- Settles O40: three bytes stored from I up, and the two ways their check fails. -/
theorem decimalDigitsAreStored : Obligations.DecimalDigitsAreStored := by
  refine ⟨fun x s font range => ?_, fun x s past => unlessFault_of_check _ (checkStore_past_memory past),
    fun x s font => exec_store_in_font (.inl rfl) font⟩
  have e : Effect s (.ldBVx x) _ := .ldBVx x (by omega) font
  have hnext := exec_of_effect e
  obtain ⟨hundreds, tens, ones⟩ := digits_of_ldBVx hnext
  refine ⟨_, hnext, rfl, hundreds, tens, ones, by omega, fun a ha => e.readByte_eq a ?_⟩
  simp only [storedCount]
  omega

/-- Settles O41: x + 1 bytes stored from I up, and the two ways their check fails. -/
theorem registersAreStored : Obligations.RegistersAreStored := by
  refine ⟨fun x s font range => ?_, fun x s past => unlessFault_of_check _ (checkStore_past_memory past),
    fun x s font => exec_store_in_font (.inr rfl) font⟩
  have e : Effect s (.ldMemVx x) _ := .ldMemVx x (by omega) font
  have hnext := exec_of_effect e
  refine ⟨_, hnext, rfl, fun r => readByte_of_ldMemVx hnext, fun a ha => e.readByte_eq a ?_⟩
  simp only [storedCount]
  omega

/-- Settles O42: a load checks its range only. -/
theorem registersAreLoaded : Obligations.RegistersAreLoaded :=
  ⟨fun x s range => ⟨_, exec_of_effect (.ldVxMem x (by omega)), loadRegisters_frame s x, loadRegisters_reg s x⟩,
    fun _ _ past => unlessFault_of_check _ (checkRange_past_memory past)⟩

/-- Settles O51: a store that goes on has passed the load's range check, and the load reads the bytes it stored. -/
theorem loadRestoresStoredRegisters : Obligations.LoadRestoresStoredRegisters := by
  intro x s t t' h hmem hi hcfg
  obtain ⟨range, -, -⟩ := (execLdMemVx_eq_next x s t).mp h
  obtain ⟨hload, -⟩ := registersAreLoaded
  obtain ⟨u, hnext, -, hregs⟩ := hload x t' (by rw [hi]; omega)
  refine ⟨u, hnext, fun r hr => ?_⟩
  have hcfg : t'.cfg = t.cfg := hcfg.trans (effect_of_exec h).cfg_eq.symm
  rw [hregs, if_pos hr, hi, State.readByte_congr hmem hcfg, readByte_of_ldMemVx h hr]

/-- Settles O39: each value fits I, and Fx1E writes the flag to VF beside it. -/
theorem indexWritersWriteTheirValue : Obligations.IndexWritersWriteTheirValue := by
  refine ⟨fun nnn s => exec_of_effect (.ldI nnn), fun x s => ⟨_, exec_of_effect (.ldFVx x), rfl, ?_⟩,
    fun x s => ⟨_, exec_of_effect (.addIVx x), rfl, ?_, fun r => ?_⟩⟩
  · have := (s.reg x).isLt
    rw [State.setIndex_i, BitVec.toNat_ofNat]
    omega
  · rw [State.setFlag_i, State.setIndex_i, BitVec.toNat_ofNat]
    omega
  · rw [State.reg_setFlag, indexOverflowFlag_eq_ite, State.setIndex_reg]

end Sys2Proof.Machine
end

section
/-! The display: a draw inverts exactly the pixels that `spriteCovers` names, so a second draw undoes it, and which bit of a sprite row a
pixel meets (44_display.md R181-R187). -/

namespace Sys2Proof.Machine

section
variable {s t : State} {x y : Reg} {n : Nat}

/-! ### The targets of a draw -/

theorem rowOf_wrap_eq_some (v : Nat) (r : Fin 32) : rowOf .wrap v = some r ↔ v % 32 = r.val := by
  simp [rowOf, Fin.ext_iff]

theorem rowOf_clip_eq_some (v : Nat) (r : Fin 32) : rowOf .clip v = some r ↔ v = r.val := by
  have := r.isLt
  simp [rowOf, Fin.ext_iff]
  omega

/-- The pixels the sprite covers are the targets its draw visits (44_display.md R182-R184). -/
theorem mem_spriteTargets_iff_spriteCovers (r : Fin 32) (c : Fin 64) :
    (r, c) ∈ spriteTargets s.cfg.drawRowMode (indexByte s) n (startRow s y) (startColumn s x) ↔ spriteCovers s x y n r c := by
  rw [mem_spriteTargets, spriteCovers]
  refine exists_congr fun j => exists_congr fun k => ?_
  cases s.cfg.drawRowMode with
  | wrap => simp only [rowOf_wrap_eq_some, Fin.ext_iff]; rfl
  | clip => simp only [rowOf_clip_eq_some, Fin.ext_iff]; rfl

/-- A draw inverts the pixels the sprite covers and keeps the others (44_display.md R182, R185). -/
theorem pixel_drawnBy_iff (hn : n ≤ 32) (r : Fin 32) (c : Fin 64) :
    (drawnBy s x y n).1.pixel r c = true ↔ Xor (s.pixel r c = true) (spriteCovers s x y n r c) := by
  obtain ⟨hpix, -⟩ := drawSprite_spec s.cfg.drawRowMode (indexByte s) n (startRow s y) (startColumn s x) s.pix hn
  rw [drawnBy, hpix, ← mem_spriteTargets_iff_spriteCovers, Bool.coe_xor_iff, decide_eq_true_iff]
  rfl

/-! ### The same sprite again -/

/-- What a sprite covers depends on the parameters, I, the bytes from I up and the two coordinate registers only. -/
theorem spriteCovers_congr (hcfg : t.cfg = s.cfg) (hmem : t.mem = s.mem) (hi : t.i = s.i) (hx : t.reg x = s.reg x)
    (hy : t.reg y = s.reg y) (r : Fin 32) (c : Fin 64) : spriteCovers t x y n r c ↔ spriteCovers s x y n r c := by
  simp only [spriteCovers, State.readByte_congr hmem hcfg, hcfg, hi, hx, hy]

/-- A draw over the result of a draw of the same sprite gives the first display back: inverting twice changes nothing
(44_display.md R186). -/
theorem drawnBy_of_same_sprite (hn : n ≤ 32) (hpix : t.pix = (drawnBy s x y n).1)
    (hcovers : ∀ r c, spriteCovers t x y n r c ↔ spriteCovers s x y n r c) : (drawnBy t x y n).1 = s.pix := by
  refine Display.ext _ _ fun r c => Bool.eq_iff_iff.mpr ?_
  have hfirst : t.pixel r c = true ↔ Xor (s.pixel r c = true) (spriteCovers s x y n r c) := by
    rw [State.pixel, hpix, pixel_drawnBy_iff hn]
  rw [pixel_drawnBy_iff hn, hfirst, hcovers]
  exact iff_of_eq (symmDiff_symmDiff_cancel_right (α := Prop) _ _)

/-! ### One row of the sprite -/

/-- In the display row of sprite row j the pixel `k` columns right of the start column, mod 64, meets bit 7 - k of that row's byte, and
none when `k` is past 7 (44_display.md R182, R183). -/
theorem spriteCovers_of_row {j : Nat} {r : Fin 32} (hn : n ≤ 32) (hj : j < n) (hr : r.val = (s.reg y).toNat % 32 + j) (c : Fin 64) :
    spriteCovers s x y n r c ↔ ∃ k, k < 8 ∧ ((s.reg x).toNat % 64 + k) % 64 = c.val ∧
      (s.readByte (s.i.toNat + j)).getLsbD (7 - k) = true := by
  have hrow := r.isLt
  constructor
  · rintro ⟨j', k, hj', hk, hr', hc, hbit⟩
    have : j' = j := by
      cases hmode : s.cfg.drawRowMode with
      | wrap => simp only [hmode] at hr'; omega
      | clip => simp only [hmode] at hr'; omega
    subst this
    exact ⟨k, hk, hc, hbit⟩
  · rintro ⟨k, hk, hc, hbit⟩
    refine ⟨j, k, hj, hk, ?_, hc, hbit⟩
    cases s.cfg.drawRowMode with
    | wrap => show _ % 32 = _; omega
    | clip => exact hr.symm

/-- From column 60 the bits 7..4 fall on the columns 60..63 and the bits 3..0 on the columns 0..3 (44_display.md R187). -/
theorem bit_at_column_of_start_sixty (b : Byte) (c : Fin 64) :
    (∃ k, k < 8 ∧ (60 + k) % 64 = c.val ∧ b.getLsbD (7 - k) = true) ↔
      (if 60 ≤ c.val then b.getLsbD (67 - c.val) else if c.val < 4 then b.getLsbD (3 - c.val) else false) = true := by
  have hcol := c.isLt
  constructor
  · rintro ⟨k, hk, hc, hbit⟩
    by_cases hleft : k < 4
    · have hindex : 67 - c.val = 7 - k := by omega
      rwa [if_pos (by omega), hindex]
    · have hindex : 3 - c.val = 7 - k := by omega
      rwa [if_neg (by omega), if_pos (by omega), hindex]
  · intro hbit
    split at hbit
    next hright =>
      have hindex : 7 - (c.val - 60) = 67 - c.val := by omega
      exact ⟨c.val - 60, by omega, by omega, by rwa [hindex]⟩
    next =>
      split at hbit
      next hleft =>
        have hindex : 7 - (c.val + 4) = 3 - c.val := by omega
        exact ⟨c.val + 4, by omega, by omega, by rwa [hindex]⟩
      next => cases hbit

end

/-! ### The statements about the display -/

/-- Settles O30: the blank display holds 0 everywhere. -/
theorem clearDisplayClears : Obligations.ClearDisplayClears := by
  refine fun s => ⟨_, exec_of_effect .cls, fun r c => ?_, rfl⟩
  simp [Display.pixel, blankDisplay]

/-- Settles O43: the pixels by `pixel_drawnBy_iff`, the flag by `drawnBy_collides_iff`, the fault by the range check. -/
theorem drawXorsTheSprite : Obligations.DrawXorsTheSprite := by
  refine ⟨fun x y n s hn range => ?_, fun x y n s hpos past => ?_⟩
  · refine ⟨_, exec_of_effect (.drw x y n (by omega)), rfl, pixel_drawnBy_iff (by omega), fun r hr => ?_, ?_⟩
    · rw [State.reg_setFlag, if_neg hr, State.setDisplay_reg]
    · rw [State.reg_setFlag, if_pos rfl]
      exact flagByte_eq_ite _ _ (drawnBy_collides_iff s x y n (by omega))
  · obtain ⟨k, rfl⟩ := Nat.exists_eq_succ_of_ne_zero hpos.ne'
    exact unlessFault_of_check _ (checkRange_past_memory past)

/-- Settles O44: the first draw changes the display and VF only, so the second draws the same sprite, VF being no coordinate; its
collisions are the pixels that the restored display has back at 0. -/
theorem drawTwiceRestoresTheDisplay : Obligations.DrawTwiceRestoresTheDisplay := by
  intro x y n s t p hx hy hn h
  have hreg : ∀ z : Reg, z ≠ 15 → t.reg z = s.reg z := fun z hz => (effect_of_exec h).reg_eq z (beq_false_of_ne hz)
  obtain ⟨range, ht⟩ := (execDrw_eq_next x y n s t).mp h
  have hpix : t.pix = (drawnBy s x y n).1 := by simp [ht]
  have hcovers : ∀ r c, spriteCovers { t with pc := p } x y n r c ↔ spriteCovers s x y n r c :=
    spriteCovers_congr (by simp [ht]) (by simp [ht]) (by simp [ht]) (hreg x hx) (hreg y hy)
  have hrestored : (drawnBy { t with pc := p } x y n).1 = s.pix := drawnBy_of_same_sprite (by omega) hpix hcovers
  refine ⟨_, exec_of_effect (.drw x y n (by simpa [ht] using range)), hrestored, ?_⟩
  rw [State.reg_setFlag, if_pos rfl]
  refine flagByte_eq_ite _ _ ((drawnBy_collides_iff _ x y n (by omega)).trans ?_)
  simp only [hrestored, and_comm]
  rfl

/-- Settles O45: the one sprite row that meets the display row, bit by bit. -/
theorem drawWrapsAtColumnSixty : Obligations.DrawWrapsAtColumnSixty := by
  intro x y n s t j r c hx hn h hj hr
  obtain ⟨-, rfl⟩ := (execDrw_eq_next x y n s t).mp h
  refine Bool.eq_iff_iff.mpr ((pixel_drawnBy_iff (by omega) r c).trans ?_)
  rw [spriteCovers_of_row (by omega) hj hr, hx, bit_at_column_of_start_sixty, Bool.coe_xor_iff]

end Sys2Proof.Machine
end


section
/-! The key and timer instructions, and a key wait that ends at the first step of a schedule on which steps keep coming
(45_keys_timers.md R200-R207; 70_reset_and_hazards.md R275). -/

namespace Sys2Proof.Machine

section
variable {s t u : State} {x k : Reg}

/-! ### Keys -/

/-- A key test whose register names no key faults with the register's value (45_keys_timers.md R200). -/
theorem raiseKeyIndex_eq (x : Reg) (i : Instr) (s : State) :
    raiseKeyIndex x i s = .fault (.keyIndexOutOfRange (s.pc - 2#16) (encode i) (BitVec.ofNat 16 (s.reg x).toNat)) := by
  rw [BitVec.ofNat_toNat]
  rfl

/-- The byte of a key index, as Fx0A writes it, loses no bit (45_keys_timers.md R204). -/
theorem toNat_keyByte (k : Reg) : (BitVec.ofNat 8 k.val).toNat = k.val := by
  rw [BitVec.toNat_ofNat]
  omega

/-- A step on Fx0A with a key down goes past the instruction, with the least such key in Vx (45_keys_timers.md R204). -/
theorem step_ldVxK_of_down (hf : s.pc.toNat + 1 ≤ 0xFFF) (hd : decode s.fetch = some (.ldVxK x)) (down : s.key k = true)
    (least : ∀ j, j < k → s.key j = false) : step s = .next (s.closeLoad.advance.setReg x (BitVec.ofNat 8 k.val)) :=
  (step_of_decode hf hd).trans (exec_of_effect (.ldVxKTakes x k down least))

/-! ### The calls between two steps -/

/-- A host call other than `step` and `setKey`, once LOAD_OPEN is false, changes at most the timers and DIRTY: `load` is then refused
(60_exceptions.md R230, R248, R249; 70_reset_and_hazards.md R265). -/
theorem perform_changes_timers_and_dirty {tr : Transaction} {r : Reply} (h : perform tr s = .performed t r) (hclosed : s.loadOpen = false)
    (hstep : tr ≠ .step) (hkey : ∀ index pressed, tr ≠ .setKey index pressed) :
    ∃ dt st dirty, t = { s with dt := dt, st := st, dirty := dirty } := by
  obtain ⟨bytes, rfl, -⟩ | ⟨-, rfl⟩ | ⟨index, pressed, rfl, -⟩ | ⟨-, rfl⟩ | ⟨-, rfl⟩ := perform_of_ne_step h hstep
  · obtain ⟨hopen, -⟩ := (performLoad_eq_performed bytes s t r).mp h
    simp [hclosed] at hopen
  · exact ⟨_, _, _, rfl⟩
  · exact absurd rfl (hkey index pressed)
  · exact ⟨_, _, _, rfl⟩
  · exact ⟨_, _, _, rfl⟩

/-- Along a schedule with neither a step nor a key change from call n on, at most the timers and DIRTY change. -/
theorem stateAfter_changes_timers_and_dirty {σ : Schedule} {n m : Nat} (ht : stateAfter σ s n = some t) (hclosed : t.loadOpen = false)
    (hnm : n ≤ m) (hstep : ∀ j, n ≤ j → j < m → σ j ≠ .step)
    (hkey : ∀ j index pressed, n ≤ j → σ j ≠ .setKey index pressed) (hu : stateAfter σ s m = some u) :
    ∃ dt st dirty, u = { t with dt := dt, st := st, dirty := dirty } := by
  induction m, hnm using Nat.le_induction generalizing u with
  | base =>
    obtain rfl : t = u := Option.some.inj (ht.symm.trans hu)
    exact ⟨_, _, _, rfl⟩
  | succ m hnm ih =>
    obtain ⟨w, r, hw, hperform⟩ := (stateAfter_succ_eq_some σ s u m).mp hu
    obtain ⟨_, _, _, rfl⟩ := ih (fun j hj hjm => hstep j hj (by omega)) hw
    obtain ⟨_, _, _, rfl⟩ :=
      perform_changes_timers_and_dirty hperform hclosed (hstep m hnm (by omega)) fun index pressed => hkey m index pressed hnm
    exact ⟨_, _, _, rfl⟩

/-- A call that keeps coming has a first occurrence from any call on (70_reset_and_hazards.md R275). -/
theorem keepsComing.exists_first {σ : Schedule} {tr : Transaction} (h : keepsComing σ tr) (n : Nat) :
    ∃ m, n ≤ m ∧ σ m = tr ∧ ∀ j, n ≤ j → j < m → σ j ≠ tr := by
  have hex := h n
  obtain ⟨hnm, hm⟩ := Nat.find_spec hex
  exact ⟨Nat.find hex, hnm, hm, fun j hnj hjm hj => Nat.find_min hex hjm ⟨hnj, hj⟩⟩

end

/-! ### The statements about keys and timers -/

/-- Settles O48: the two cases of Fx0A, and the step on which it waits. -/
theorem keyWaitTakesTheLeastKeyDown : Obligations.KeyWaitTakesTheLeastKeyDown := by
  refine ⟨fun x k s down least => ?_, fun x s up => exec_of_effect (.ldVxKWaits x up), fun x s up hf hd => ?_⟩
  · obtain ⟨t, hnext, hframe, hregs⟩ := exec_of_setReg (.ldVxKTakes x k down least)
    refine ⟨t, hnext, hframe, ?_, fun r hr => ?_⟩
    · rw [hregs, if_pos rfl, toNat_keyByte]
    · rw [hregs, if_neg hr]
  · have hwait : completion s = .WaitingForKey := completion_eq_waitingForKey.mpr ⟨x, hd, up⟩
    have hstep := (step_of_decode hf hd).trans (exec_of_effect (.ldVxKWaits x up))
    rw [eq_closeLoad_of_waiting hstep hwait] at hstep
    exact (performStep_eq_performed s _ _).mpr (.inl ⟨hstep, by rw [hwait]⟩)

/-- Settles O60: up to the first step the host's calls leave PC, memory and the keys as they were, so that step finds Fx0A at PC with the
same least key down. -/
theorem fairSchedulesEndTheKeyWait : Obligations.FairSchedulesEndTheKeyWait := by
  intro σ s n t x k hadmitted hsteps ht hclosed hf hd hkey down least
  obtain ⟨m, hnm, hm, hfirst⟩ := hsteps.exists_first n
  obtain ⟨w, hw⟩ := hadmitted m
  obtain ⟨dt, st, dirty, rfl⟩ := stateAfter_changes_timers_and_dirty ht hclosed hnm hfirst hkey hw
  have hstep := step_ldVxK_of_down (s := { t with dt := dt, st := st, dirty := dirty }) hf hd down least
  have hperform := (performStep_eq_performed _ _ _).mpr (.inl ⟨hstep, rfl⟩)
  refine ⟨m, _, hnm, hm, hfirst, (stateAfter_succ_eq_some σ s _ m).mpr ⟨_, _, hw, by rw [hm]; exact hperform⟩, rfl, ?_⟩
  rw [State.reg_setReg, if_pos rfl, toNat_keyByte]

/-- Settles O46: the skips test the key that Vx names, and a Vx that names none fails `keyAt`. -/
theorem keyTestsSkip : Obligations.KeyTestsSkip := by
  refine ⟨fun x k s hk => ?_, fun x s hnone => ?_⟩
  · have hkey : Fin.ofNat 16 (s.reg x).toNat = k := by rw [hk]; exact Fin.ofNat_val_eq_self k
    have hle : (s.reg x).toNat ≤ 15 := by omega
    exact ⟨exec_of_skipIf (.skp x hle) (by rw [hkey]), exec_of_skipIf (.sknp x hle) (by rw [hkey, Bool.not_eq_true'])⟩
  · have hat : keyAt s (s.reg x) = none := (keyAt_eq_none s _).mpr hnone
    simp only [exec, execSkp, execSknp, hat, raiseKeyIndex_eq, and_self]

/-- Settles O47: one register written, or one timer. -/
theorem timersAreReadAndWritten : Obligations.TimersAreReadAndWritten := fun x _ =>
  ⟨exec_of_setReg (.ldVxDt x), exec_of_effect (.ldDtVx x), exec_of_effect (.ldStVx x)⟩

end Sys2Proof.Machine
end

section
/-! The invariant along sequences of host calls, faulting steps included: each call keeps it (60_exceptions.md R240, R243). -/

namespace Sys2Proof.Machine

section
variable {s t : State}

/-- A program that fits goes above the font and inside memory (70_reset_and_hazards.md R263). -/
theorem State.Inv.loadProgram (hs : s.Inv) {bytes : List Byte} (hfits : bytes.length ≤ 3584) : (s.loadProgram bytes).Inv := by
  obtain ⟨hwf, hfont, hrest⟩ := hs
  exact ⟨Memory.writeBytes_wf _ bytes _ _ hwf (by omega), Memory.writeBytes_above _ 0x050 bytes _ _ hfont (by decide), hrest⟩

/-- A step keeps the invariant, whatever its outcome: a fault changes LOAD_OPEN only, of which the invariant says nothing. -/
theorem performStep_keeps_inv {r : Reply} (h : performStep s = .performed t r) (hs : s.Inv) : t.Inv := by
  obtain ⟨hstep, -⟩ | ⟨f, -, rfl, -⟩ := (performStep_eq_performed s t r).mp h
  · exact stepKeepsTheInvariant s t hs hstep
  · exact hs

/-- Every host call keeps the invariant. -/
theorem perform_keeps_inv {tr : Transaction} {r : Reply} (h : perform tr s = .performed t r) (hs : s.Inv) : t.Inv := by
  by_cases hstep : tr = .step
  · subst hstep
    exact performStep_keeps_inv h hs
  · obtain ⟨bytes, -, hfits, rfl⟩ | ⟨-, rfl⟩ | ⟨k, p, -, rfl⟩ | ⟨-, rfl⟩ | ⟨-, rfl⟩ := perform_of_ne_step h hstep
    case inl => exact hs.loadProgram hfits
    all_goals exact hs

end

/-- Settles O4, by induction on the sequence: each of its calls keeps the invariant. -/
theorem transactionSequencesKeepTheInvariant : Obligations.TransactionSequencesKeepTheInvariant := by
  intro ts
  induction ts with
  | nil =>
    intro s t hs h
    cases h
    exact hs
  | cons tr ts ih =>
    intro s t hs h
    obtain ⟨u, r, hfirst, hrest⟩ := (performAll_cons_eq_some tr ts).mp h
    exact ih u t (perform_keeps_inv hfirst hs) hrest

end Sys2Proof.Machine
end

section
/-! Which instruction faults, and with what; no instruction is refused; a fault repeats (60_exceptions.md R221-R224, R228). -/

namespace Sys2Proof.Machine

section
variable {s t : State} {i : Instr} {f g g' : Fault} {x : Reg}

/-! ### The faults of each instruction -/

/-- An outcome is a fault exactly when one of two checks fails, and is then that check's fault; where both fail they give one fault. -/
theorem eq_fault_iff_of_checks {o : Host.Outcome State Fault Refusal} {p q : Prop} (first : p → o = .fault g) (second : q → o = .fault g')
    (passed : ¬ p → ¬ q → ∃ t, o = .next t) : o = .fault f ↔ (p ∧ f = g) ∨ (q ∧ f = g') := by
  constructor
  · intro h
    by_cases hp : p
    · exact .inl ⟨hp, Host.Outcome.fault.inj (h.symm.trans (first hp))⟩
    · by_cases hq : q
      · exact .inr ⟨hq, Host.Outcome.fault.inj (h.symm.trans (second hq))⟩
      · obtain ⟨t, ht⟩ := passed hp hq
        cases h.symm.trans ht
  · rintro (⟨hp, rfl⟩ | ⟨hq, rfl⟩)
    · exact first hp
    · exact second hq

/-- An outcome is a fault exactly when its one check fails. -/
theorem eq_fault_iff_of_check {o : Host.Outcome State Fault Refusal} {p : Prop} (failed : p → o = .fault g)
    (passed : ¬ p → ∃ t, o = .next t) : o = .fault f ↔ p ∧ f = g := by
  simpa using eq_fault_iff_of_checks (g' := g) (q := False) failed False.elim fun hp _ => passed hp

theorem exec_ret_eq_fault : exec .ret s = .fault f ↔ s.stack = [] ∧ f = .stackUnderflow (s.pc - 2#16) (encode .ret) :=
  eq_fault_iff_of_check exec_ret_of_empty fun hne => ⟨_, exec_of_effect (.ret _ (List.getLast?_eq_some_getLast hne))⟩

theorem exec_call_eq_fault (nnn : Word) :
    exec (.call nnn) s = .fault f ↔ 16 ≤ s.stack.length ∧ f = .stackOverflow (s.pc - 2#16) (encode (.call nnn)) :=
  eq_fault_iff_of_check (exec_call_of_full nnn) fun hroom => ⟨_, exec_call_of_room nnn (Nat.lt_of_not_le hroom)⟩

theorem exec_drw_eq_fault (x y : Reg) (n : Nat) :
    exec (.drw x y n) s = .fault f ↔ (0 < n ∧ 0xFFF < s.i.toNat + n - 1) ∧
      f = .addressOutOfRange (s.pc - 2#16) (some (encode (.drw x y n))) (BitVec.ofNat 16 (s.i.toNat + n - 1)) := by
  obtain ⟨-, hpast⟩ := drawXorsTheSprite
  exact eq_fault_iff_of_check (fun ⟨hpos, past⟩ => hpast x y n s hpos past)
    fun hin => ⟨_, exec_of_effect (.drw x y n (by omega))⟩

theorem exec_ldVxMem_eq_fault (x : Reg) :
    exec (.ldVxMem x) s = .fault f ↔ 0xFFF < s.i.toNat + x.val ∧
      f = .addressOutOfRange (s.pc - 2#16) (some (encode (.ldVxMem x))) (BitVec.ofNat 16 (s.i.toNat + x.val)) := by
  obtain ⟨-, hpast⟩ := registersAreLoaded
  exact eq_fault_iff_of_check (hpast x s) fun hin => ⟨_, exec_of_effect (.ldVxMem x (by omega))⟩

theorem exec_ldBVx_eq_fault (x : Reg) :
    exec (.ldBVx x) s = .fault f ↔
      (0xFFF < s.i.toNat + 2 ∧
        f = .addressOutOfRange (s.pc - 2#16) (some (encode (.ldBVx x))) (BitVec.ofNat 16 (s.i.toNat + 2))) ∨
      (s.i.toNat ≤ 0x04F ∧ f = .fontWrite (s.pc - 2#16) (encode (.ldBVx x)) s.i) := by
  obtain ⟨-, hpast, hfont⟩ := decimalDigitsAreStored
  exact eq_fault_iff_of_checks (hpast x s) (hfont x s) fun hin habove => ⟨_, exec_of_effect (.ldBVx x (by omega) (by omega))⟩

theorem exec_ldMemVx_eq_fault (x : Reg) :
    exec (.ldMemVx x) s = .fault f ↔
      (0xFFF < s.i.toNat + x.val ∧
        f = .addressOutOfRange (s.pc - 2#16) (some (encode (.ldMemVx x))) (BitVec.ofNat 16 (s.i.toNat + x.val))) ∨
      (s.i.toNat ≤ 0x04F ∧ f = .fontWrite (s.pc - 2#16) (encode (.ldMemVx x)) s.i) := by
  obtain ⟨-, hpast, hfont⟩ := registersAreStored
  exact eq_fault_iff_of_checks (hpast x s) (hfont x s) fun hin habove => ⟨_, exec_of_effect (.ldMemVx x (by omega) (by omega))⟩

/-- Both key tests fault exactly when Vx names no key (45_keys_timers.md R200). -/
theorem exec_keyTest_eq_fault (hi : i = .skp x ∨ i = .sknp x) :
    exec i s = .fault f ↔ 15 < (s.reg x).toNat ∧
      f = .keyIndexOutOfRange (s.pc - 2#16) (encode i) (BitVec.ofNat 16 (s.reg x).toNat) := by
  obtain ⟨-, hnone⟩ := keyTestsSkip
  obtain rfl | rfl := hi
  · exact eq_fault_iff_of_check (fun h => (hnone x s h).left) fun hkey => ⟨_, exec_of_effect (.skp x (by omega))⟩
  · exact eq_fault_iff_of_check (fun h => (hnone x s h).right) fun hkey => ⟨_, exec_of_effect (.sknp x (by omega))⟩

/-- Fx0A never faults: it waits or takes a key (45_keys_timers.md R204). -/
theorem exec_ldVxK_ne_fault (x : Reg) : exec (.ldVxK x) s ≠ .fault f := by
  simp only [exec, execLdVxK]
  split <;> simp

/-! ### No refusal -/

/-- Every instruction goes on or faults (60_exceptions.md R228). -/
theorem exec_ne_refused (i : Instr) (s : State) (r : Refusal) : exec i s ≠ .refused r := by
  cases i
  case ret | call | ldVxK =>
    simp only [exec, execRet, execCall, execLdVxK]
    split <;> simp
  case skp | sknp =>
    simp only [exec, execSkp, execSknp]
    split <;> simp [raiseKeyIndex]
  case drw | ldBVx | ldMemVx | ldVxMem => exact unlessFault_ne_refused _ _ _ _ r
  all_goals exact fun h => nomatch h

/-! ### A step after a fault -/

/-- A step does not read LOAD_OPEN, which it closes first (40_cycle.md R95; 10_state.md R44). -/
theorem step_closeLoad (s : State) : step s.closeLoad = step s := rfl

/-- A step answers with a fault exactly when it faults, and then leaves LOAD_OPEN closed and all else as it was (60_exceptions.md R222). -/
theorem performStep_eq_fault :
    performStep s = .performed t (.outcome (.Fault f)) ↔ step s = .fault f ∧ t = s.closeLoad := by
  simp [performStep_eq_performed, (completion_ne_fault s f).symm, eq_comm (a := f)]

end

/-! ### The statements about faults -/

/-- Settles O19: the instruction's PC is two past the opcode it was fetched from, and its encoding is that opcode. -/
theorem faultsRecordAddressAndOpcode : Obligations.FaultsRecordAddressAndOpcode := by
  intro s f hf h
  obtain ⟨hpast, -⟩ | ⟨-, i, hd, hexec⟩ := step_eq_fault.mp h
  · omega
  · obtain ⟨haddress, hopcode⟩ := fault_of_exec hexec
    exact ⟨haddress.trans s.opcodeAddress_advance, by rw [hopcode, (decode_sound hd).1]⟩

/-- Settles O20: the eight instructions with a check, each by when its check fails, and the others, which have none. -/
theorem instructionsFaultExactlyWhen : Obligations.InstructionsFaultExactlyWhen := by
  intro i s f
  cases i
  case ret => simpa using exec_ret_eq_fault
  case call nnn => simpa using exec_call_eq_fault nnn
  case drw x y n => simpa [and_assoc] using exec_drw_eq_fault x y n
  case ldVxMem x => simpa using exec_ldVxMem_eq_fault x
  case ldBVx x => simpa using exec_ldBVx_eq_fault x
  case ldMemVx x => simpa using exec_ldMemVx_eq_fault x
  case skp x => simpa using exec_keyTest_eq_fault (.inl rfl)
  case sknp x => simpa using exec_keyTest_eq_fault (.inr rfl)
  case ldVxK x => simpa using exec_ldVxK_ne_fault x
  all_goals exact iff_of_false (fun h => nomatch h) (by simp)

/-- Settles O21: the fetch faults or a decoded instruction runs, and neither is refused; an unmatched opcode goes on. -/
theorem noStepIsRefused : Obligations.NoStepIsRefused := by
  intro s r
  rw [step]
  split
  · split
    · exact exec_ne_refused _ _ r
    · exact fun h => nomatch h
  · exact fun h => nomatch h

/-- Settles O22: the faulting step closed LOAD_OPEN at most, which the next step does not read. -/
theorem faultRepeatsUnchanged : Obligations.FaultRepeatsUnchanged := by
  intro s t f h
  obtain ⟨hfault, rfl⟩ := performStep_eq_fault.mp h
  exact performStep_eq_fault.mpr ⟨(step_closeLoad s).trans hfault, rfl⟩

end Sys2Proof.Machine
end

section
/-! The timer, key and display calls of the host (60_exceptions.md R230-R232, R245-R250). -/

namespace Sys2Proof.Machine

@[simp] theorem toNat_countDown (t : Byte) : (countDown t).toNat = t.toNat - 1 := by
  have := t.isLt
  unfold countDown
  split
  next => rw [BitVec.toNat_ofNat]; omega
  next => omega

/-- The flattened display is the library's flattened vector. -/
theorem Display.flatten_eq (d : Display) : d.flatten = (Vector.flatten d).toList := by
  simp [Display.flatten, Vector.flatten, Vector.toList, Function.comp_def]

/-- Cell (r, c) of the display is element r · 64 + c of its flattening (60_exceptions.md R250). -/
theorem Display.getElem?_flatten (d : Display) (r : Fin 32) (c : Fin 64) :
    d.flatten[r.val * 64 + c.val]? = some (d.pixel r c) := by
  have hindex : r.val * 64 + c.val < 32 * 64 := by omega
  have hrow : (r.val * 64 + c.val) / 64 = r.val := by omega
  have hcolumn : (r.val * 64 + c.val) % 64 = c.val := by omega
  rw [Display.flatten_eq, Vector.getElem?_toList, Vector.getElem?_eq_getElem hindex, Vector.getElem_flatten]
  simp only [hrow, hcolumn]
  rfl

/-! ### The statements about these calls -/

/-- Settles O54, by induction on the number of ticks. -/
theorem ticksCountDownToZero : Obligations.TicksCountDownToZero := by
  intro k
  induction k with
  | zero => exact fun s => ⟨s, rfl, rfl, rfl, rfl⟩
  | succ k ih =>
    intro s
    obtain ⟨t, hrun, hframe, hdt, hst⟩ := ih s.tick
    refine ⟨t, hrun, hframe, ?_, ?_⟩
    · rw [hdt, State.tick_dt, toNat_countDown]; omega
    · rw [hst, State.tick_st, toNat_countDown]; omega

/-- Settles O56: the buffer is PIX itself, and 00E0 and Dxyn set DIRTY whatever they draw. -/
theorem dirtyProtocol : Obligations.DirtyProtocol := by
  refine ⟨fun s => rfl, fun s => ⟨s.pix, rfl, fun r c => ⟨rfl, s.pix.getElem?_flatten r c⟩⟩, fun i s t hi h => ?_⟩
  obtain ⟨hcls, hdrw, -⟩ := (effect_of_exec h).display
  obtain rfl | ⟨x, y, n, rfl⟩ := hi
  · exact hcls rfl
  · exact hdrw x y n rfl

/-- Settles O53: each timer goes down by 1, and a subtraction from 0 leaves 0. -/
theorem tickDecrementsBothTimers : Obligations.TickDecrementsBothTimers := by
  refine fun s => ⟨s.tick, rfl, rfl, ?_, ?_⟩
  · rw [State.tick_dt, toNat_countDown]; split <;> omega
  · rw [State.tick_st, toNat_countDown]; split <;> omega

/-- Settles O55: an index up to 15 is that key's, and any other is refused. -/
theorem setKeyWritesOneKey : Obligations.SetKeyWritesOneKey := by
  refine ⟨fun k pressed s => ⟨s.setKey k pressed, ?_, rfl, fun j => State.key_setKey s k j pressed⟩, fun index pressed s h => ?_⟩
  · exact (performSetKey_eq_performed _ _ _ _ _).mpr ⟨by omega, by rw [Fin.ofNat_val_eq_self], rfl⟩
  · exact if_neg (by omega)

end Sys2Proof.Machine
end

section
/-! Which sequences of host calls are admitted: LOAD_OPEN is what the calls so far have left of it, and a call is refused for its key
index or for a closed LOAD_OPEN only (60_exceptions.md R243-R245; 70_reset_and_hazards.md R265; 10_state.md R44). -/

namespace Sys2Proof.Machine

/-- The call is no step and no load that succeeds, the two that close LOAD_OPEN (tied to `perform` by `loadOpen_of_perform`). -/
def keepsLoadOpen (tr : Transaction) : Prop := tr ≠ .step ∧ ∀ bytes, tr = .load bytes → 3584 < bytes.length

/-- The call breaks no host duty where LOAD_OPEN is `isOpen` (60_exceptions.md R244; tied to `perform` by `perform_admits_iff`). -/
def admits (isOpen : Prop) (tr : Transaction) : Prop :=
  (∀ index pressed, tr = .setKey index pressed → index ≤ 15) ∧ ∀ bytes, tr = .load bytes → isOpen

section
variable {s t : State} {tr : Transaction} {r : Reply} {σ : Schedule} {n : Nat}

theorem performStep_closes (h : performStep s = .performed t r) : t.loadOpen = false := by
  obtain ⟨hstep, -⟩ | ⟨f, -, rfl, -⟩ := (performStep_eq_performed s t r).mp h
  · obtain ⟨-, ⟨i, -, hi⟩ | ⟨-, rfl⟩⟩ := (step_eq_next s t).mp hstep
    · exact (effect_of_exec hi).loadOpen_eq
    · rfl
  · rfl

/-- LOAD_OPEN stays true exactly through the calls that keep it open (10_state.md R44). -/
theorem loadOpen_of_perform (h : perform tr s = .performed t r) :
    t.loadOpen = true ↔ s.loadOpen = true ∧ keepsLoadOpen tr := by
  cases tr with
  | load bytes =>
    obtain ⟨hopen, ⟨hfits, rfl, -⟩ | ⟨hlong, rfl, -⟩⟩ := (performLoad_eq_performed bytes s t r).mp h
    · simp [keepsLoadOpen, Nat.not_lt.mpr hfits]
    · simp [keepsLoadOpen, hopen, hlong]
  | step => simp [keepsLoadOpen, performStep_closes h]
  | setKey index pressed =>
    obtain ⟨-, rfl, -⟩ := (performSetKey_eq_performed index pressed s t r).mp h
    simp [keepsLoadOpen]
  | tick | isDirty | consumeDirty =>
    cases h
    simp [keepsLoadOpen]

/-- A step is always performed: it goes on or faults, and a fault is its reply. -/
theorem perform_step_performed (s : State) : ∃ t r, perform .step s = .performed t r := by
  cases h : step s with
  | next t => exact ⟨_, _, (performStep_eq_performed s _ _).mpr (.inl ⟨h, rfl⟩)⟩
  | fault f => exact ⟨_, _, (performStep_eq_performed s _ _).mpr (.inr ⟨f, h, rfl, rfl⟩)⟩
  | refused r => exact absurd h (noStepIsRefused s r)

/-- A load is performed exactly while LOAD_OPEN is true, whether its bytes fit or not (70_reset_and_hazards.md R263-R265). -/
theorem perform_load_performed_iff (bytes : List Byte) :
    (∃ t r, perform (.load bytes) s = .performed t r) ↔ s.loadOpen = true := by
  constructor
  · rintro ⟨t, r, h⟩
    obtain ⟨hopen, -⟩ := (performLoad_eq_performed bytes s t r).mp h
    exact hopen
  · intro hopen
    obtain hlong | hfits := Nat.lt_or_ge 3584 bytes.length
    · exact ⟨_, _, (performLoad_eq_performed bytes s _ _).mpr ⟨hopen, .inr ⟨hlong, rfl, rfl⟩⟩⟩
    · exact ⟨_, _, (performLoad_eq_performed bytes s _ _).mpr ⟨hopen, .inl ⟨hfits, rfl, rfl⟩⟩⟩

/-- A call is performed exactly when it breaks no host duty (60_exceptions.md R244). -/
theorem perform_admits_iff : (∃ t r, perform tr s = .performed t r) ↔ admits (s.loadOpen = true) tr := by
  cases tr with
  | load bytes => simpa [admits] using perform_load_performed_iff bytes
  | step => simpa [admits] using perform_step_performed s
  | setKey index pressed => simp [perform, performSetKey_eq_performed, admits]
  | tick | isDirty | consumeDirty => simp [perform, admits]

/-- After the calls so far LOAD_OPEN is true exactly when each of them kept it open. -/
theorem loadOpen_of_stateAfter (hopen : s.loadOpen = true) (h : stateAfter σ s n = some t) :
    t.loadOpen = true ↔ ∀ j, j < n → keepsLoadOpen (σ j) := by
  induction n generalizing t with
  | zero => cases h; simpa using hopen
  | succ n ih =>
    obtain ⟨u, r, hu, hperform⟩ := (stateAfter_succ_eq_some σ s t n).mp h
    rw [loadOpen_of_perform hperform, ih hu, Nat.forall_lt_succ_right]

/-- The duties of one more call: its own, where LOAD_OPEN is what the calls before it left (60_exceptions.md R244). -/
theorem keepsDuties_succ :
    keepsDuties σ (n + 1) ↔ keepsDuties σ n ∧ admits (∀ j, j < n → keepsLoadOpen (σ j)) (σ n) := by
  constructor
  · rintro ⟨hkeys, hloads⟩
    exact ⟨⟨fun m index pressed hm => hkeys m index pressed (by omega), fun m bytes hm => hloads m bytes (by omega)⟩,
      fun index pressed => hkeys n index pressed n.lt_succ_self, fun bytes => hloads n bytes n.lt_succ_self⟩
  · rintro ⟨⟨hkeys, hloads⟩, hkey, hload⟩
    refine ⟨fun m index pressed hm => ?_, fun m bytes hm => ?_⟩
    · obtain hm | rfl := Nat.lt_succ_iff_lt_or_eq.mp hm
      · exact hkeys m index pressed hm
      · exact hkey index pressed
    · obtain hm | rfl := Nat.lt_succ_iff_lt_or_eq.mp hm
      · exact hloads m bytes hm
      · exact hload bytes

/-- The first n calls are all performed exactly when they keep the host's duties (60_exceptions.md R243, R244). -/
theorem stateAfter_admits_iff (hopen : s.loadOpen = true) : (∃ t, stateAfter σ s n = some t) ↔ keepsDuties σ n := by
  induction n with
  | zero => simp [stateAfter, keepsDuties]
  | succ n ih =>
    rw [keepsDuties_succ, ← ih]
    constructor
    · rintro ⟨u, hu⟩
      obtain ⟨t, r, ht, hperform⟩ := (stateAfter_succ_eq_some σ s u n).mp hu
      rw [← loadOpen_of_stateAfter hopen ht]
      exact ⟨⟨t, ht⟩, perform_admits_iff.mp ⟨u, r, hperform⟩⟩
    · rintro ⟨⟨t, ht⟩, hadmits⟩
      rw [← loadOpen_of_stateAfter hopen ht] at hadmits
      obtain ⟨u, r, hperform⟩ := perform_admits_iff.mpr hadmits
      exact ⟨u, (stateAfter_succ_eq_some σ s u n).mpr ⟨t, r, ht, hperform⟩⟩

end

/-- Settles O59: the first n calls are performed exactly when they keep the duties, and a finite sequence is the beginning of a schedule. -/
theorem dutifulSequencesAreExactlyTheAdmitted : Obligations.DutifulSequencesAreExactlyTheAdmitted := by
  refine ⟨fun σ s hopen => forall_congr' fun n => stateAfter_admits_iff hopen, fun σ n s hopen => ?_⟩
  rw [← stateAfter_eq_performAll]
  exact stateAfter_admits_iff hopen

end Sys2Proof.Machine
end

section
/-! Running off the end of a program into zeroed memory: no-ops up to 0xFFF, then a fetch fault (70_reset_and_hazards.md R267; 40_cycle.md
R97; 20_memory.md R59). -/

namespace Sys2Proof.Machine

/-- The state that `k` no-ops at PC lead to, `k` at least 1 (tied to `step` by `step_afterNoOps`, to a run by `run_through_zeros`). -/
def State.afterNoOps (s : State) (k : Nat) : State :=
  { s with pc := BitVec.ofNat 16 (s.pc.toNat + 2 * k), loadOpen := false }

section
variable {s : State} {k : Nat}

/-- Two zero bytes are the opcode 0x0000 (20_memory.md R50). -/
theorem fetch_of_zeros (hhi : s.readByte s.pc.toNat = 0#8) (hlo : s.readByte (s.pc.toNat + 1) = 0#8) : s.fetch = 0x0000#16 :=
  State.fetch_eq hhi hlo

/-- 0x0000 is no opcode of the table (30_encoding.md R76). -/
theorem decode_zero : decode 0x0000#16 = none := by decide

theorem State.toNat_pc_afterNoOps (hk : s.pc.toNat + 2 * k ≤ 0x1000) : (s.afterNoOps k).pc.toNat = s.pc.toNat + 2 * k := by
  simp [State.afterNoOps]; omega

theorem State.advance_afterNoOps (s : State) (k : Nat) : (s.afterNoOps k).closeLoad.advance = s.afterNoOps (k + 1) := by
  simp [State.afterNoOps, State.closeLoad, State.advance, Nat.mul_add, ← Nat.add_assoc, BitVec.ofNat_add]

/-- A run of at least one step does not depend on LOAD_OPEN, which its first step closes (10_state.md R44). -/
theorem run_afterNoOps_zero (s : State) (m : Nat) : core.run (m + 1) (s.afterNoOps 0) = core.run (m + 1) s := by
  have hclose : s.afterNoOps 0 = s.closeLoad := by simp [State.afterNoOps, State.closeLoad]
  rw [hclose]
  rfl

variable (zeros : ∀ a, s.pc.toNat ≤ a → a ≤ 0xFFF → s.readByte a = 0#8)
include zeros

/-- Inside memory, the step after `k` no-ops is one more. -/
theorem step_afterNoOps (hk : s.pc.toNat + 2 * (k + 1) ≤ 0x1000) : step (s.afterNoOps k) = .next (s.afterNoOps (k + 1)) := by
  have hpc : (s.afterNoOps k).pc.toNat = s.pc.toNat + 2 * k := State.toNat_pc_afterNoOps (by omega)
  have hread (a : Nat) : (s.afterNoOps k).readByte a = s.readByte a := rfl
  have hfetch : (s.afterNoOps k).fetch = 0x0000#16 :=
    fetch_of_zeros (by rw [hread, hpc]; exact zeros _ (by omega) (by omega)) (by rw [hread, hpc]; exact zeros _ (by omega) (by omega))
  rw [step_of_unmatched (by omega) (by rw [hfetch, decode_zero]), State.advance_afterNoOps]

/-- A run over zeroed memory goes through `k` no-ops first, as long as they fit into it. -/
theorem run_through_zeros (hk : s.pc.toNat + 2 * k ≤ 0x1000) (m : Nat) :
    core.run (k + m + 1) s = core.run (m + 1) (s.afterNoOps k) := by
  induction k generalizing m with
  | zero => rw [Nat.zero_add, run_afterNoOps_zero]
  | succ k ih =>
    calc core.run (k + 1 + m + 1) s
      _ = core.run (k + (m + 1) + 1) s := by rw [Nat.add_right_comm k 1 m, Nat.add_assoc k m 1]
      _ = core.run (m + 1 + 1) (s.afterNoOps k) := ih (by omega) (m + 1)
      _ = core.run (m + 1) (s.afterNoOps (k + 1)) := core_run_succ_next _ _ _ (step_afterNoOps zeros hk)

/-- After `k` steps, at least one, the run has made `k` no-ops. -/
theorem run_zeros_next (hk : s.pc.toNat + 2 * k ≤ 0x1000) (hpos : 1 ≤ k) : core.run k s = .next (s.afterNoOps k) := by
  obtain ⟨k, rfl⟩ := Nat.exists_eq_add_of_le' hpos
  rw [run_through_zeros zeros (by omega) 0]
  exact core_run_succ_next 0 _ _ (step_afterNoOps zeros hk)

/-- Where `k` no-ops have left no room for a fetch, the next step faults (20_memory.md R59). -/
theorem run_zeros_fault (hk : s.pc.toNat + 2 * k ≤ 0x1000) (hend : 0xFFF ≤ s.pc.toNat + 2 * k) :
    core.run (k + 1) s = .fault (.addressOutOfRange (s.afterNoOps k).pc none (s.afterNoOps k).pc) := by
  have hpast : 0xFFF < (s.afterNoOps k).pc.toNat + 1 := by rw [State.toNat_pc_afterNoOps hk]; omega
  rw [run_through_zeros zeros hk 0]
  exact core_run_succ_fault 0 _ _ (step_eq_fault.mpr (.inl ⟨hpast, rfl⟩))

end

/-- Memory reads 0 from the initial PC up (10_state.md R21). -/
theorem reset_zeros (a : Nat) (ha : State.reset.pc.toNat ≤ a) : State.reset.readByte a = 0#8 := by
  have hprogram : 0x200 ≤ a := ha
  obtain ⟨hread, -⟩ := resetStateIsAsSpecified
  rw [hread, dif_neg (by omega)]

/-- Settles O58: a run over zeros is a run of no-ops, and from reset 1792 of them end at 0x1000. -/
theorem runningOffTheEnd : Obligations.RunningOffTheEnd := by
  refine ⟨fun s hf hhi hlo => ?_, fun s zeros k hk => ⟨run_zeros_next zeros hk, run_zeros_fault zeros hk⟩,
    fun k hpos hk => ?_, ?_⟩
  · have hfetch := fetch_of_zeros hhi hlo
    obtain ⟨-, hperform⟩ := unmatchedOpcodeIsANoOp s hf (by rw [hfetch, decode_zero])
    rwa [hfetch] at hperform
  · exact run_zeros_next (fun a ha _ => reset_zeros a ha) (by simp [State.reset]; omega) hpos
  · exact run_zeros_fault (k := 1792) (fun a ha _ => reset_zeros a ha) (by decide) (by decide)

end Sys2Proof.Machine
end

section
/-! The host's load, and what LOAD_OPEN has to do with the instructions: nothing (70_reset_and_hazards.md R263-R265; 10_state.md R44). -/

namespace Sys2Proof.Machine

/-- A load puts its bytes at 0x200 up and touches no other byte (70_reset_and_hazards.md R263). -/
theorem State.readByte_loadProgram (s : State) (bytes : List Byte) (a : Nat) :
    (s.loadProgram bytes).readByte a = if h : 0x200 ≤ a ∧ a < 0x200 + bytes.length then bytes[a - 0x200] else s.readByte a :=
  State.readByte_storeBytes s 0x200 a bytes

/-- LD_VX_MEM reads no LOAD_OPEN (43_index_memory.md R166). -/
theorem loadRegisters_with_loadOpen (s : State) (x : Reg) (b : Bool) :
    loadRegisters { s with loadOpen := b } x = { loadRegisters s x with loadOpen := b } := by
  have hv : (loadRegisters { s with loadOpen := b } x).v = (loadRegisters s x).v :=
    State.v_ext _ _ fun r => by rw [loadRegisters_reg, loadRegisters_reg]; rfl
  rw [loadRegisters_frame, hv, loadRegisters_frame s]

/-- A skip reads no LOAD_OPEN (41_control_flow.md R110). -/
theorem State.skipIf_with_loadOpen (s : State) (c b : Bool) :
    State.skipIf { s with loadOpen := b } c = { s.skipIf c with loadOpen := b } := by
  cases c <;> rfl

/-- What an instruction does is the same under any value of LOAD_OPEN, which it neither reads nor changes (10_state.md R44). -/
theorem Effect.with_loadOpen {s t : State} {i : Instr} (h : Effect s i t) (b : Bool) :
    Effect { s with loadOpen := b } i { t with loadOpen := b } := by
  cases h
  case ldVxMem x range => rw [← loadRegisters_with_loadOpen]; exact .ldVxMem x range
  case seByte | sneByte | seReg | sneReg => rw [← State.skipIf_with_loadOpen]; constructor
  case skp x key => rw [← State.skipIf_with_loadOpen]; exact .skp x key
  case sknp x key => rw [← State.skipIf_with_loadOpen]; exact .sknp x key
  all_goals constructor <;> assumption

/-- Settles O57: `load` has three answers, a step and a `load` that succeeds close LOAD_OPEN, and no instruction reads it. -/
theorem loadCopiesOnceOrNotAtAll : Obligations.LoadCopiesOnceOrNotAtAll := by
  refine ⟨fun bytes s hopen hfits => ?_, fun bytes s hopen hlong => ?_, fun bytes s hclosed => ?_, fun s t r => performStep_closes, rfl,
    fun tr s t r h hclosed => ?_, fun i s t b h => exec_of_effect ((effect_of_exec h).with_loadOpen b)⟩
  · refine ⟨s.loadProgram bytes, (performLoad_eq_performed bytes s _ _).mpr ⟨hopen, .inl ⟨hfits, rfl, rfl⟩⟩, rfl, fun k hk => ?_, fun a ha => ?_⟩
    · rw [State.readByte_loadProgram, dif_pos (by omega)]
      simp
    · rw [State.readByte_loadProgram, dif_neg ha]
  · exact (performLoad_eq_performed bytes s _ _).mpr ⟨hopen, .inr ⟨hlong, rfl, rfl⟩⟩
  · simp [perform, performLoad, hclosed]
  · simp [← Bool.not_eq_true, loadOpen_of_perform h, hclosed]

end Sys2Proof.Machine
end
